-- ==== Sys2Proof/Word.lean ====
section
/-! DEFINITION. The byte, the only width the block computes with (00_scope.md R5, R7: 8 bits, bit 0 the least
significant, unsigned). -/

namespace Sys2Proof

/-- R7, R8: `Byte`, 8 bits unsigned; `v.getLsbD i` is the spec's `v[i]`. -/
abbrev Byte := BitVec 8

end Sys2Proof
end

