-- ==== Sys2Proof/Syntax.lean ====
section
/-! DEFINITION. The operations of the block as syntax: one constructor per row of spec/opcode_table.json (30_encoding.md
R78, and the wire packet R70), with the operand types of 00_scope.md R8. -/

namespace Sys2Proof

/-- R8 `Packet`: the four bytes of a wire packet in wire order, `p0` transmitted first (R52, R70). -/
structure Packet where
  /-- `p[0]`, the red byte. -/
  p0 : Byte
  /-- `p[1]`, the blue byte. -/
  p1 : Byte
  /-- `p[2]`, the green byte. -/
  p2 : Byte
  /-- `p[3]`, the column-select byte. -/
  p3 : Byte
  deriving DecidableEq, Repr

/-- R8 `FlagSeq`: an ordered sequence of flags with its length; element 0 first, `true` = lit (R80, D6; log 15). -/
abbrev FlagSeq := List Bool

/-- R8 `Flags8`: a flag sequence of length exactly 8. -/
abbrev Flags8 := Vector Bool 8

/-- R8 `Grid`, packed as R20 and R83 pack it: row `r` is byte `r`, bit `c` of it the pixel at column `c`, 1 = lit. -/
abbrev Grid := Vector Byte 8

/-- Where the bytes of an instruction travel: the nine requests come in on the request port (30_encoding.md Part B), a
wire packet goes out on the bus channel (Part A; 20_memory.md R56). -/
inductive Channel where
  /-- The request port (R76). -/
  | requestPort
  /-- The bus channel (R56). -/
  | bus
  deriving DecidableEq, Repr

/-- One constructor per row of the opcode table. -/
inductive Instr where
  /-- SETBIT idx, val (R100). -/
  | setbit (idx val : Byte)
  /-- CLRBIT idx, val (R101). -/
  | clrbit (idx val : Byte)
  /-- TSTBIT idx, val (R102). -/
  | tstbit (idx val : Byte)
  /-- B2BYTE flags (R103). -/
  | b2byte (flags : FlagSeq)
  /-- BYTE2B val (R104). -/
  | byte2b (val : Byte)
  /-- ENCCOL red, green, blue, col: operands in logical channel order (R130, R82). -/
  | enccol (red green blue : FlagSeq) (col : Byte)
  /-- DECPKT p0, p1, p2, p3 (R132). -/
  | decpkt (p : Packet)
  /-- SETFRM red, green, blue, mirror; on the port `mirror` comes first (R150, R83). -/
  | setfrm (mirror : Bool) (red green blue : Grid)
  /-- DRAW iterations (R160). -/
  | draw (iterations : BitVec 16)
  /-- WIREPKT: a wire packet on the bus channel (R70, R56, R166), the sequencer's transmission of it (log 9). -/
  | wirepkt (p : Packet)
  deriving DecidableEq, Repr

/-- The channel an instruction's bytes travel on. -/
def Instr.channel : Instr → Channel
  | .setbit _ _ => .requestPort
  | .clrbit _ _ => .requestPort
  | .tstbit _ _ => .requestPort
  | .b2byte _ => .requestPort
  | .byte2b _ => .requestPort
  | .enccol _ _ _ _ => .requestPort
  | .decpkt _ => .requestPort
  | .setfrm _ _ _ _ => .requestPort
  | .draw _ => .requestPort
  | .wirepkt _ => .bus

end Sys2Proof
end

