-- ==== Sys2Proof/WellFormed.lean ====
section
/-! DEFINITION. Which terms of `Instr` the encodings can carry: a flag sequence has at most 16 elements (30_encoding.md
R80), and a wire packet has a one-hot column-select byte (R70, R72, R73). Every other operand is well formed by its
type. -/

namespace Sys2Proof

/-- R5 `LEN_MAX`: the longest flag sequence the request port can carry (D6). -/
def lenMax : Nat := 16

/-- R80: a `FlagSeq` operand has 0 to 16 elements. -/
def FlagSeq.wellFormed (f : FlagSeq) : Bool := decide (f.length ≤ lenMax)

/-- R72: the valid column-select bytes are the eight values `1 << c`. -/
def columnSelectValid (b : Byte) : Bool := decide (∃ c : Fin 8, b = 1#8 <<< c.val)

/-- R70, R73: exactly one bit of the column-select byte of a packet on the wire is 1. -/
def Packet.wellFormed (p : Packet) : Bool := columnSelectValid p.p3

/-- The instructions the two encodings can carry. -/
def Instr.wellFormed : Instr → Bool
  | .setbit _ _ => true
  | .clrbit _ _ => true
  | .tstbit _ _ => true
  | .b2byte f => FlagSeq.wellFormed f
  | .byte2b _ => true
  | .enccol r g b _ => FlagSeq.wellFormed r && FlagSeq.wellFormed g && FlagSeq.wellFormed b
  | .decpkt _ => true
  | .setfrm _ _ _ _ => true
  | .draw _ => true
  | .wirepkt p => p.wellFormed

end Sys2Proof
end

