-- ==== Sys2Proof/Decode.lean ====
section
/-! DEFINITION. Decoding, total on any bytes and rejecting by name (30_encoding.md R77 to R84, R87; R74 for the bus
channel), then the encoder, and the host's view of the opcode table's words. -/

namespace Sys2Proof

/-- The opcodes of R78, one per request. -/
inductive Opcode where
  | setbit | clrbit | tstbit | b2byte | byte2b | enccol | decpkt | setfrm | draw
  deriving DecidableEq, Repr

/-- Why a byte sequence is no legal encoding (R87, and R74 for the bus channel). -/
inductive DecodeError where
  /-- R77: the empty sequence has no opcode. -/
  | empty
  /-- R87 (a): an opcode outside R78. -/
  | reservedOpcode (op : Byte)
  /-- R87 (b): a length that is not the format's (on the bus channel, not four bytes). -/
  | wrongLength
  /-- R87 (c): `FlagSeq.len` above 16. -/
  | flagSeqTooLong (len : Byte)
  /-- R87 (d): a `mirror` byte other than 0 and 1. -/
  | mirrorNotFlag (mirror : Byte)
  deriving DecidableEq, Repr

/-- R78: the opcode map; the other 247 values are reserved. -/
def Opcode.ofByte (b : Byte) : Option Opcode :=
  if b = 0x01#8 then some .setbit
  else if b = 0x02#8 then some .clrbit
  else if b = 0x03#8 then some .tstbit
  else if b = 0x04#8 then some .b2byte
  else if b = 0x05#8 then some .byte2b
  else if b = 0x10#8 then some .enccol
  else if b = 0x11#8 then some .decpkt
  else if b = 0x20#8 then some .setfrm
  else if b = 0x30#8 then some .draw
  else none

/-- R78: byte 0 of each request. -/
def Opcode.toByte : Opcode → Byte
  | .setbit => 0x01#8
  | .clrbit => 0x02#8
  | .tstbit => 0x03#8
  | .b2byte => 0x04#8
  | .byte2b => 0x05#8
  | .enccol => 0x10#8
  | .decpkt => 0x11#8
  | .setfrm => 0x20#8
  | .draw => 0x30#8

/-- R78: the exact length of a request in bytes, fixed by its opcode. -/
def Opcode.length : Opcode → Nat
  | .setbit => 3
  | .clrbit => 3
  | .tstbit => 3
  | .b2byte => 4
  | .byte2b => 2
  | .enccol => 11
  | .decpkt => 5
  | .setfrm => 26
  | .draw => 3

/-- R80: the `FlagSeq` operand `len, f_lo, f_hi`; bit `k` of `f_hi ++ f_lo` is element `k`, and the bits at or above
`len` are ignored. -/
def decodeFlagSeq (len lo hi : Byte) : Except DecodeError FlagSeq :=
  if lenMax < len.toNat then .error (.flagSeqTooLong len)
  else .ok ((List.range len.toNat).map fun k => (hi ++ lo).getLsbD k)

/-- R83: `mirror` is 0 or 1. -/
def decodeMirror (m : Byte) : Except DecodeError Bool :=
  if m = 0#8 then .ok false else if m = 1#8 then .ok true else .error (.mirrorNotFlag m)

/-- R83: a grid is exactly eight row bytes, row 0 first. -/
def decodeGrid (bs : List Byte) : Except DecodeError Grid :=
  if h : bs.toArray.size = 8 then .ok ⟨bs.toArray, h⟩ else .error .wrongLength

/-- R79 to R84: the operand bytes of each format. -/
def decodeOperands (op : Opcode) (bs : List Byte) : Except DecodeError Instr :=
  match op with
  | .setbit =>
    match bs with
    | [idx, val] => .ok (.setbit idx val)
    | _ => .error .wrongLength
  | .clrbit =>
    match bs with
    | [idx, val] => .ok (.clrbit idx val)
    | _ => .error .wrongLength
  | .tstbit =>
    match bs with
    | [idx, val] => .ok (.tstbit idx val)
    | _ => .error .wrongLength
  | .b2byte =>
    match bs with
    | [len, lo, hi] => (decodeFlagSeq len lo hi).map .b2byte
    | _ => .error .wrongLength
  | .byte2b =>
    match bs with
    | [val] => .ok (.byte2b val)
    | _ => .error .wrongLength
  | .enccol =>
    match bs with
    | [rLen, rLo, rHi, gLen, gLo, gHi, bLen, bLo, bHi, col] => do
      let red ← decodeFlagSeq rLen rLo rHi
      let green ← decodeFlagSeq gLen gLo gHi
      let blue ← decodeFlagSeq bLen bLo bHi
      .ok (.enccol red green blue col)
    | _ => .error .wrongLength
  | .decpkt =>
    match bs with
    | [p0, p1, p2, p3] => .ok (.decpkt ⟨p0, p1, p2, p3⟩)
    | _ => .error .wrongLength
  | .setfrm =>
    match bs with
    | m :: rows => do
      let mirror ← decodeMirror m
      let red ← decodeGrid (rows.take 8)
      let green ← decodeGrid ((rows.drop 8).take 8)
      let blue ← decodeGrid (rows.drop 16)
      .ok (.setfrm mirror red green blue)
    | _ => .error .wrongLength
  | .draw =>
    match bs with
    | [lo, hi] => .ok (.draw (hi ++ lo))
    | _ => .error .wrongLength

/-- R77: the request decoder. Opcode first, then the exact length, then the fields. -/
def decodeRequest : List Byte → Except DecodeError Instr
  | [] => .error .empty
  | b :: bs =>
    match Opcode.ofByte b with
    | none => .error (.reservedOpcode b)
    | some op => if bs.length + 1 = op.length then decodeOperands op bs else .error .wrongLength

/-- R74: every sequence of four bytes is a packet; a sequence of any other length is not. -/
def decodeBus : List Byte → Except DecodeError Instr
  | [p0, p1, p2, p3] => .ok (.wirepkt ⟨p0, p1, p2, p3⟩)
  | _ => .error .wrongLength

/-- The decoder of each channel. -/
def decode : Channel → List Byte → Except DecodeError Instr
  | .requestPort => decodeRequest
  | .bus => decodeBus

/-! The encoder, from the same tables. -/

/-- The number whose bit `k` is element `k` of the sequence. -/
def flagSeqValue : FlagSeq → Nat
  | [] => 0
  | b :: f => b.toNat + 2 * flagSeqValue f

/-- R80: `len`, `f_lo`, `f_hi`; the ignored bits are written 0. -/
def encodeFlagSeq (f : FlagSeq) : List Byte :=
  [BitVec.ofNat 8 f.length, BitVec.ofNat 8 (flagSeqValue f), BitVec.ofNat 8 (flagSeqValue f / 256)]

/-- R83: 0 = false, 1 = true. -/
def encodeMirror (m : Bool) : Byte := if m then 1#8 else 0#8

/-- R52: a packet's bytes in wire order. -/
def Packet.bytes (p : Packet) : List Byte := [p.p0, p.p1, p.p2, p.p3]

/-- R77 to R84 for requests, R70 for a wire packet. -/
def encode : Instr → List Byte
  | .setbit idx val => [Opcode.setbit.toByte, idx, val]
  | .clrbit idx val => [Opcode.clrbit.toByte, idx, val]
  | .tstbit idx val => [Opcode.tstbit.toByte, idx, val]
  | .b2byte f => Opcode.b2byte.toByte :: encodeFlagSeq f
  | .byte2b val => [Opcode.byte2b.toByte, val]
  | .enccol r g b col =>
    Opcode.enccol.toByte :: (encodeFlagSeq r ++ encodeFlagSeq g ++ encodeFlagSeq b ++ [col])
  | .decpkt p => Opcode.decpkt.toByte :: p.bytes
  | .setfrm m r g b => Opcode.setfrm.toByte :: encodeMirror m :: (r.toList ++ g.toList ++ b.toList)
  | .draw n => [Opcode.draw.toByte, n.setWidth 8, (n >>> 8).setWidth 8]
  | .wirepkt p => p.bytes

/-! The opcode table's words (spec/opcode_table.json numbers bit 0 as bit 0 of byte 0). -/

/-- The first `n` bytes of a table word, byte 0 first. -/
def wordBytes (n w : Nat) : List Byte := (List.range n).map fun k => BitVec.ofNat 8 (w >>> (8 * k))

/-- The bytes of a table word: as many as the table gives it, and at least as many as its opcode fixes (R78: the length
is known from byte 0 alone), the bits above the table's zero. -/
def tableBytes (nbits w : Nat) : List Byte :=
  let n := (nbits + 7) / 8
  let w' := w % 2 ^ nbits
  match Opcode.ofByte (BitVec.ofNat 8 w') with
  | some op => wordBytes (max n op.length) w'
  | none => wordBytes n w'

/-- Whether a table word is read as a wire packet: the table's one row of the bus channel has four bytes and no fixed
bit, so it is what a four-byte word is when it is no legal request (log 10). -/
def tableWordIsPacket (nbits w : Nat) : Bool :=
  match decodeRequest (tableBytes nbits w) with
  | .ok _ => false
  | .error _ => decide (nbits = 32)

/-- The four bytes of a table word as a packet (R70: the first byte is `p[0]`). -/
def tablePacket (w : Nat) : Packet where
  p0 := BitVec.ofNat 8 w
  p1 := BitVec.ofNat 8 (w >>> 8)
  p2 := BitVec.ofNat 8 (w >>> 16)
  p3 := BitVec.ofNat 8 (w >>> 24)

/-- The instruction the decoders read from a table word: the request port's reading where it is legal, else the bus
channel's reading of a four-byte word (log 10). The block itself never chooses so: what the host presents is read by
`decodeRequest` alone (see `Sys2Proof.Machine.step`). -/
def decodeTableWord (nbits w : Nat) : Option Instr :=
  if tableWordIsPacket nbits w then some (.wirepkt (tablePacket w))
  else (decodeRequest (tableBytes nbits w)).toOption

end Sys2Proof
end

