-- ==== Sys2Proof/Config.lean ====
section
/-! DEFINITION. The configuration: the five `CFG` fields and the two parameters of 00_scope.md R5 that are arguments of
the machine, and the values the block was instantiated with (opaque: nothing says what they are). -/

namespace Sys2Proof

/-- R27 to R31 (10_state.md) and the parameters `T_COL`, `CLOSE_AFTER_FAILED_OPEN` of R5 (00_scope.md). State holds one
of these; no operation writes it, and a claim for every state is a claim for every value of it (U15, D12). -/
structure Cfg where
  /-- `CFG.BUS_ID`, passed through in `BusOpen` (R28). -/
  busId : Nat
  /-- `CFG.DEVICE_ID`, passed through in `BusOpen` (R28). -/
  deviceId : Nat
  /-- `CFG.SPEED_EN` (R29). -/
  speedEn : Bool
  /-- `CFG.MAX_SPEED_HZ`, in hertz; ignored when `speedEn` is false (R29). -/
  maxSpeedHz : Nat
  /-- `CFG.DEBUG`: no rule of the block reads it (R31, D10; log 19). -/
  debug : Nat
  /-- `T_COL`, in milliseconds (R5, R229; log 6). -/
  tCol : Nat
  /-- `CLOSE_AFTER_FAILED_OPEN` (R5, R169 (b), D12; log 6). -/
  closeAfterFailedOpen : Bool
  deriving DecidableEq, Repr

/-- The transport's answer to a call (60_exceptions.md R206, R207). -/
inductive Answer where
  | ok | fail
  deriving DecidableEq, Repr

namespace Config

/-- The instantiation value of `CFG.BUS_ID` (R27, R28): OPEN, so opaque (log 5). -/
opaque busId : Nat
/-- The instantiation value of `CFG.DEVICE_ID` (R27, R28): OPEN, so opaque (log 5). -/
opaque deviceId : Nat
/-- The instantiation value of `CFG.SPEED_EN` (R27, R29): OPEN, so opaque (log 5). -/
opaque speedEn : Bool
/-- The instantiation value of `CFG.MAX_SPEED_HZ` (R27, R29): OPEN, so opaque (log 5). -/
opaque maxSpeedHz : Nat
/-- The instantiation value of `CFG.DEBUG` (R27, R31): OPEN, so opaque (log 5). -/
opaque debug : Nat

/-- What the transport answers from reset on, first first, before it answers no more: decided outside the block and by
nothing in the spec (R207, U18), so opaque (log 2). -/
opaque transportAnswers : List Answer

/-- R5: the default of `T_COL` is 2 ms. -/
def tColDefault : Nat := 2
/-- R5, D12: the default of `CLOSE_AFTER_FAILED_OPEN` is false. -/
def closeAfterFailedOpenDefault : Bool := false

/-- The configuration the block is instantiated with and keeps over reset (R27, R221). -/
def instantiation : Cfg where
  busId := busId
  deviceId := deviceId
  speedEn := speedEn
  maxSpeedHz := maxSpeedHz
  debug := debug
  tCol := tColDefault
  closeAfterFailedOpen := closeAfterFailedOpenDefault

end Config

end Sys2Proof
end

