-- ==== Sys2Proof/Machine/State.lean ====
section
/-! DEFINITION. The state of the block as plain data (10_state.md R20 to R36), what it presents to the outside (R11), what
the outside will present to it (log 1, log 2), and its value after reset (70_reset_and_hazards.md R221). -/

namespace Sys2Proof.Machine

/-- R8 `Status`, R190: how a request ends. -/
inductive Status where
  /-- Success. -/
  | ok
  /-- R191: an index outside 0..7. -/
  | indexRange
  /-- R192: a flag sequence whose length is not 8. -/
  | shape
  /-- R193: the transport answered `fail`. -/
  | transport
  /-- R194: the request bytes are not legal. -/
  | illegalRequest
  deriving DecidableEq, Repr

/-- R8 `Tri`, R134: the three-valued pixel state of a decoded grid. -/
inductive Tri where
  | unlit | lit | unknown
  deriving DecidableEq, Repr

/-- R8 `TriGrid`: row `r`, column `c` is `(g[r])[c]`. -/
abbrev TriGrid := Vector (Vector Tri 8) 8

/-- The result a response carries when its status is `OK` (R85). -/
inductive Result where
  /-- No result: SETFRM, DRAW, and every response with an error status. -/
  | none
  /-- SETBIT, CLRBIT, B2BYTE. -/
  | byte (b : Byte)
  /-- TSTBIT. -/
  | flag (f : Bool)
  /-- BYTE2B. -/
  | flags (f : Flags8)
  /-- ENCCOL. -/
  | packet (p : Packet)
  /-- DECPKT: red, green, blue. -/
  | grids (red green blue : TriGrid)
  deriving DecidableEq, Repr

/-- One response on the response port (R76, R85); its bytes are `Response.bytes`. -/
structure Response where
  status : Status
  result : Result
  deriving DecidableEq, Repr

/-- The transport operations that are answered (R206). -/
inductive Call where
  /-- `open(bus_id, device_id)`. -/
  | busOpen (busId deviceId : Nat)
  /-- `set_max_speed(hz)`. -/
  | busSetSpeed (hz : Nat)
  /-- `write_bytes([p0, p1, p2, p3])`. -/
  | busWrite (p : Packet)
  deriving DecidableEq, Repr

/-- R11 (b): one entry of the event trace; an answered call carries its answer. -/
inductive Event where
  /-- `BusOpen`, `BusSetSpeed` or `BusWrite`, with the transport's answer beside it. -/
  | call (c : Call) (a : Answer)
  /-- `Delay(T_COL)`: at least that many milliseconds before the next event (R229). -/
  | delay (ms : Nat)
  /-- `BusClose`, which has no answer (R206, D15; log 13). -/
  | busClose
  deriving DecidableEq, Repr

/-- R20: the frame buffer, 24 row registers; bit `c` of row `r` is the pixel at (r, c), 1 = lit. -/
structure FrameBuffer where
  /-- `FB.R[0..7]`. -/
  r : Grid
  /-- `FB.G[0..7]`. -/
  g : Grid
  /-- `FB.B[0..7]`. -/
  b : Grid
  deriving DecidableEq, Repr

/-- The place inside the pseudocode of R160 a DRAW in progress has reached: the model's own field (log 21), read only
while `busy`. Between two steps it is the place of an event: at `loop` and `column`, which emit nothing, the sequencer
only passes (log 3). -/
inductive Point where
  /-- Step 1, at `emit BusOpen`. -/
  | openBus
  /-- Step 1 after a failed open, at the `emit BusClose` that `CLOSE_AFTER_FAILED_OPEN` asks for. -/
  | closeUnopened
  /-- Step 2, at `emit BusSetSpeed`. -/
  | setSpeed
  /-- Step 3, at the test of the `while`. -/
  | loop
  /-- Steps 3a and 3b, at the head of the inner loop. -/
  | column
  /-- Step 3b', at `emit BusWrite` of the packet 3a packed. -/
  | transmit (p : Packet)
  /-- Step 3c, at `emit Delay`. -/
  | settle
  /-- Step 4, at `emit BusClose`, with the status the DRAW will end with. -/
  | close (st : Status)
  deriving DecidableEq, Repr

/-- R25: the sequencer's state. While `busy` is false the rest is unspecified and unread (U10; log 4, log 18). -/
structure Seq where
  /-- `SEQ.busy`. -/
  busy : Bool
  /-- `SEQ.n`, the iteration count. -/
  n : BitVec 16
  /-- `SEQ.iter`, the completed iterations. -/
  iter : BitVec 16
  /-- `SEQ.col`, the column being handled. -/
  col : BitVec 3
  /-- The place in R160's pseudocode (log 21). -/
  point : Point
  deriving DecidableEq, Repr

/-- What the outside does to the block next (R6 (1), R220): the model's own field type (log 1, log 8). -/
inductive HostInput where
  /-- A request, a sequence of bytes presented as a whole (R76). -/
  | request (bytes : List Byte)
  /-- The reset input (R220), asserted as soon as it is first (log 8). -/
  | reset
  deriving DecidableEq, Repr

/-- Everything the spec gives the block, and the model's own `inputs` and `answers`. -/
structure State where
  /-- `FB` (R20). -/
  fb : FrameBuffer
  /-- `SEQ` (R25). -/
  seq : Seq
  /-- `BUS.open` (R34). -/
  busOpen : Bool
  /-- `CFG` and the two parameters (R27, R5). -/
  cfg : Cfg
  /-- The event trace, oldest first (R9 `emit`, R11 (b)). -/
  trace : List Event
  /-- The responses presented, oldest first (R11 (a); log 7). No rule reads them. -/
  responses : List Response
  /-- What the host and the reset input will present, first first (log 1). Not a queue of the block (R76). -/
  inputs : List HostInput
  /-- What the transport will answer, first first (R207, U18; log 2). Empty: the next call is not answered (R173). -/
  answers : List Answer
  deriving DecidableEq, Repr

/-- No rule of the spec makes the machine stop with a fault: an error is the status of a response, after which the block
is idle and ready (60_exceptions.md R197, R198; log 17). So this type has no constructor. -/
inductive Fault where
  deriving DecidableEq, Repr

/-- Why the model gives a situation no meaning. -/
inductive Refusal where
  /-- An arm of `exec` whose instruction has no meaning yet. Raised by no meaning. Safe. -/
  | notModelled (mnemonic : String)
  /-- Raised by `accept` (every request's meaning): a request executed while a DRAW is in progress, which the port cannot
  present and which R226 and U5 say to refuse (log 11). Safe. -/
  | requestInProgress
  /-- Raised by `step`: the reset input while a DRAW is in progress, which R220 and U13 say to refuse (log 8). Safe. -/
  | resetDuringRequest
  /-- Raised by `execWirepkt`: a wire packet other than the one the sequencer is at the point of sending; the block puts
  no other packet on the bus (R33, R206, R209; log 9). Safe. -/
  | packetNotOffered
  deriving DecidableEq, Repr

/-- R22: the reset value of every row register, all pixels lit. -/
def resetGrid : Grid := Vector.replicate 8 0xFF#8

/-- R22: the reset frame. -/
def resetFrame : FrameBuffer := ⟨resetGrid, resetGrid, resetGrid⟩

/-- R25, R221: idle. `n`, `iter`, `col` and `point` are unspecified and unread while idle: DESIGN CHOICE (log 4). -/
def resetSeq : Seq := ⟨false, 0#16, 0#16, 0#3, .openBus⟩

/-- R221: the state after reset, with nothing presented yet, and whatever answers the transport will give
(log 1, log 2). -/
def State.reset : State where
  fb := resetFrame
  seq := resetSeq
  busOpen := false
  cfg := Config.instantiation
  trace := []
  responses := []
  inputs := []
  answers := Config.transportAnswers

end Sys2Proof.Machine
end

