-- ==== Sys2Proof/Machine/Operands.lean ====
section
/-! DEFINITION. Operand forms: the index check, single bits of a byte, the column-select byte and its inverse, the column
slice of a grid, the row order of a mirrored grid (30_encoding.md R72, R79; 40_bitops.md R100 to R102; 41_frame_codec.md
R133; 20_memory.md R51; 42_frame_buffer.md R151). -/

namespace Sys2Proof.Machine

/-- R106: the mask `1 << i`. -/
def bitMask (i : Nat) : Byte := 1#8 <<< i

/-- R191: an index is legal in 0..7; it is never clamped, wrapped or masked. -/
def checkIndex (idx : Byte) : Except Status Nat :=
  if 7 < idx.toNat then .error .indexRange else .ok idx.toNat

/-- R100: set bit `i`. -/
def setBit (i : Nat) (v : Byte) : Byte := v ||| bitMask i

/-- R101: clear bit `i`. -/
def clearBit (i : Nat) (v : Byte) : Byte := v &&& ~~~(bitMask i)

/-- R102: test bit `i`. -/
def testBit (i : Nat) (v : Byte) : Bool := v.getLsbD i

/-- R7: the number of 1 bits. -/
def popcount (v : Byte) : Nat := ((List.range 8).filter fun i => v.getLsbD i).length

/-- R133: `ActiveCol`, the index of the single 1 bit, or none. -/
def activeCol (cb : Byte) : Option Nat :=
  if popcount cb = 1 then (List.range 8).find? fun c => cb.getLsbD c else none

/-- R51: `Slice(ch, c)`, whose element `k` is `FB.ch[k][c]`. -/
def slice (g : Grid) (c : Nat) : FlagSeq := g.toList.map fun row => row.getLsbD c

/-- R150: the operand row that is stored at row `r`. -/
def sourceRow (mirror : Bool) (r : Fin 8) : Fin 8 := if mirror then r.rev else r

/-- R150, R151: the grid as it is stored. -/
def storedGrid (mirror : Bool) (g : Grid) : Grid := Vector.ofFn fun r => g.get (sourceRow mirror r)

/-- R165: the skip test, on the three colour bytes alone. -/
def skipped (p : Packet) : Bool := decide (p.p0 = 0xFF#8 ∧ p.p1 = 0xFF#8 ∧ p.p2 = 0xFF#8)

end Sys2Proof.Machine
end

