-- ==== Sys2Proof/Machine/Flags.lean ====
section
/-! DEFINITION. The block has no condition codes (10_state.md R26); its flags are the pixel flags. This file holds the
conversions between a byte and a sequence of eight flags in inverted logic (40_bitops.md R103, R104) and the codec built
on them (41_frame_codec.md R130, R132). -/

namespace Sys2Proof.Machine

/-- R103: start from 0xFF and clear bit `k` for each element `k` that is 1 (lit); the polarity of 90_conflicts.md C1. -/
def packFlags (f : FlagSeq) : Byte :=
  (List.range 8).foldl (fun b k => if f.getD k false then clearBit k b else b) 0xFF#8

/-- R103, R192: B2BYTE's check and its result. -/
def bitsToByte (f : FlagSeq) : Except Status Byte :=
  if f.length ≠ 8 then .error .shape else .ok (packFlags f)

/-- R104: flag `k` is 1 where bit `k` is clear (90_conflicts.md C2). -/
def byteToBits (v : Byte) : Flags8 := Vector.ofFn fun k => !v.getLsbD k.val

/-- R130, R196: the conversions in the order red, green, blue, column; the result in wire order red, blue, green,
column. -/
def encodeColumn (red green blue : FlagSeq) (col : Byte) : Except Status Packet := do
  let redByte ← bitsToByte red
  let greenByte ← bitsToByte green
  let blueByte ← bitsToByte blue
  let c ← checkIndex col
  .ok ⟨redByte, blueByte, greenByte, setBit c 0#8⟩

/-- R134: a decoded flag as a pixel state. -/
def triOfFlag (f : Bool) : Tri := if f then .lit else .unlit

/-- R132: one decoded grid, from its colour byte and the active column: flag `k` at row `k` of that column, `Unknown`
everywhere else. -/
def decodedGrid (active : Option Nat) (colour : Byte) : TriGrid :=
  Vector.ofFn fun r => Vector.ofFn fun c =>
    if active = some c.val then triOfFlag ((byteToBits colour).get r) else .unknown

/-- R132, R139: red from byte 0, green from byte 2, blue from byte 1. -/
def decodePacket (p : Packet) : Result :=
  let active := activeCol p.p3
  .grids (decodedGrid active p.p0) (decodedGrid active p.p2) (decodedGrid active p.p1)

end Sys2Proof.Machine
end

