-- ==== Sys2Proof/Machine/Ops.lean ====
section
/-! DEFINITION. The named operations over the state: accepting a request, ending one with a result or an error, emitting an
event, asking the transport, storing a frame, the reset input. -/

namespace Sys2Proof.Machine

/-- R76: a request is executed only while no other is in progress; R226, U5: otherwise the model refuses (log 11). -/
def accept (s : State) (act : State → State) : Host.Outcome State Fault Refusal :=
  if s.seq.busy then .refused .requestInProgress else .next (act s)

/-- R76, R85: present one response. -/
def respond (r : Response) (s : State) : State := { s with responses := s.responses ++ [r] }

/-- R9 `return v`: end the operation with `OK` and its result. -/
def finish (v : Result) (s : State) : State := respond ⟨.ok, v⟩ s

/-- R9 `raise`, R197: what an error does, the block's whole exception mechanism. The response is the status alone;
nothing is saved, masked or pushed, control goes nowhere, and the block is ready (R198: there is no return). -/
def raise (st : Status) (s : State) : State := respond ⟨st, .none⟩ s

/-- End a pure operation by its outcome. -/
def conclude (r : Except Status Result) (s : State) : State :=
  match r with
  | .ok v => finish v s
  | .error st => raise st s

/-- R9 `emit`, for the events that have no answer. -/
def emit (e : Event) (s : State) : State := { s with trace := s.trace ++ [e] }

/-- R9 `emit` of an answered event: the transport's next answer is consumed, recorded beside the call (R11) and handed
on. None: the transport has not answered, and nothing happens (R173, U12; log 2, log 20). -/
def ask (c : Call) (k : Answer → State → State) (s : State) : Option State :=
  match s.answers with
  | [] => none
  | a :: rest => some (k a (emit (.call c a) { s with answers := rest }))

/-- R150, R55: the frame buffer is written whole. -/
def storeFrame (fb : FrameBuffer) (s : State) : State := { s with fb := fb }

/-- R25: the sequencer is idle again. -/
def goIdle (s : State) : State := { s with seq := { s.seq with busy := false } }

/-- The sequencer's place becomes `pt`. -/
def goto (pt : Point) (s : State) : State := { s with seq := { s.seq with point := pt } }

/-- R34: write `BUS.open`. -/
def setBusOpen (v : Bool) (s : State) : State := { s with busOpen := v }

/-- R220, R221: the reset input, taken while idle. The configuration is kept; what the outside will still present and
answer is not the block's to lose (log 8). -/
def applyReset (s : State) : State :=
  { State.reset with cfg := s.cfg, inputs := s.inputs, answers := s.answers }

end Sys2Proof.Machine
end

