-- ==== Sys2Proof/Machine/BitOps.lean ====
section
/-! DEFINITION. Unit 1, the bit operations: SETBIT, CLRBIT, TSTBIT, B2BYTE, BYTE2B (40_bitops.md). -/

namespace Sys2Proof.Machine

/-- R100: `val | (1 << idx)`, or `INDEX_RANGE`. -/
def execSetbit (idx val : Byte) (s : State) : Host.Outcome State Fault Refusal :=
  accept s (conclude ((checkIndex idx).map fun i => .byte (setBit i val)))

/-- R101: `val & ~(1 << idx)`, or `INDEX_RANGE`. -/
def execClrbit (idx val : Byte) (s : State) : Host.Outcome State Fault Refusal :=
  accept s (conclude ((checkIndex idx).map fun i => .byte (clearBit i val)))

/-- R102: `val[idx]`, or `INDEX_RANGE`. -/
def execTstbit (idx val : Byte) (s : State) : Host.Outcome State Fault Refusal :=
  accept s (conclude ((checkIndex idx).map fun i => .flag (testBit i val)))

/-- R103: the colour byte of eight flags, or `SHAPE`. -/
def execB2byte (f : FlagSeq) (s : State) : Host.Outcome State Fault Refusal :=
  accept s (conclude ((bitsToByte f).map .byte))

/-- R104: the eight flags of a colour byte. -/
def execByte2b (val : Byte) (s : State) : Host.Outcome State Fault Refusal :=
  accept s (conclude (.ok (.flags (byteToBits val))))

end Sys2Proof.Machine
end

