-- ==== Sys2Proof/Machine/Codec.lean ====
section
/-! DEFINITION. Units 2 and 3, the frame codec: ENCCOL, DECPKT (41_frame_codec.md). -/

namespace Sys2Proof.Machine

/-- R130: the packet of one column, or the first of `SHAPE`, `INDEX_RANGE` in the order of R196. -/
def execEnccol (red green blue : FlagSeq) (col : Byte) (s : State) : Host.Outcome State Fault Refusal :=
  accept s (conclude ((encodeColumn red green blue col).map .packet))

/-- R132: the three decoded grids, for any four bytes. -/
def execDecpkt (p : Packet) (s : State) : Host.Outcome State Fault Refusal :=
  accept s (conclude (.ok (decodePacket p)))

end Sys2Proof.Machine
end

