-- ==== Sys2Proof/Machine/FrameStore.lean ====
section
/-! DEFINITION. The frame buffer operation: SETFRM (42_frame_buffer.md). -/

namespace Sys2Proof.Machine

/-- R150: all 24 row registers, the row order reversed when `mirror` is 1. -/
def execSetfrm (mirror : Bool) (red green blue : Grid) (s : State) : Host.Outcome State Fault Refusal :=
  accept s fun s =>
    finish .none
      (storeFrame ⟨storedGrid mirror red, storedGrid mirror green, storedGrid mirror blue⟩ s)

end Sys2Proof.Machine
end

