-- ==== Sys2Proof/Machine/Sequencer.lean ====
section
/-! DEFINITION. Unit 4, the column multiplexer sequencer: DRAW as a sequence of moves, each emitting one event (00_scope.md
R6 (3)) and then following R160's pseudocode, silently, to the place of the next event (log 3); and WIREPKT, the move that
sends a packet (43_sequencer.md). -/

namespace Sys2Proof.Machine

/-- R160, first line: `SEQ.busy <- 1; SEQ.n <- n`; the next event is step 1's. -/
def beginDraw (n : BitVec 16) (s : State) : State :=
  { s with seq := { s.seq with busy := true, n := n, point := .openBus } }

/-- `SEQ.iter <- 0`, at the `while`. -/
def startSweep (s : State) : State := { s with seq := { s.seq with iter := 0#16, point := .loop } }

/-- Step 1 (R161), with the failure of R169 (b): the response is presented at once, or after the `BusClose` that
`CLOSE_AFTER_FAILED_OPEN` asks for, which is an event of its own. -/
def openBus (s : State) : Option State :=
  ask (.busOpen s.cfg.busId s.cfg.deviceId)
    (fun a s =>
      match a with
      | .ok => if s.cfg.speedEn then goto .setSpeed (setBusOpen true s) else startSweep (setBusOpen true s)
      | .fail => if s.cfg.closeAfterFailedOpen then goto .closeUnopened s else raise .transport (goIdle s))
    s

/-- Step 2 (R162). -/
def setSpeed (s : State) : Option State :=
  ask (.busSetSpeed s.cfg.maxSpeedHz)
    (fun a s =>
      match a with
      | .ok => startSweep s
      | .fail => goto (.close .transport) s)
    s

/-- Step 3, `while SEQ.iter != SEQ.n` (R163). -/
def loopTest (s : State) : State :=
  if s.seq.iter = s.seq.n then goto (.close .ok) s
  else { s with seq := { s.seq with col := 0#3, point := .column } }

/-- R163: `SEQ.col <- (SEQ.col + 1) mod 8`, and after column 7 `SEQ.iter <- SEQ.iter + 1`. -/
def nextColumn (s : State) : State :=
  if s.seq.col = 7#3 then
    { s with seq := { s.seq with col := s.seq.col + 1#3, iter := s.seq.iter + 1#16, point := .loop } }
  else { s with seq := { s.seq with col := s.seq.col + 1#3, point := .column } }

/-- R164: `ENCCOL` of the three column slices with the column's own index. It never raises
(`Sys2Proof.Laws.columnEncoding_eq`). -/
def columnEncoding (fb : FrameBuffer) (c : BitVec 3) : Except Status Packet :=
  encodeColumn (slice fb.r c.toNat) (slice fb.g c.toNat) (slice fb.b c.toNat) (c.setWidth 8)

/-- Steps 3a and 3b (R164, R165): pack the column, and skip it or go on to send it. -/
def packColumn (s : State) : State :=
  match columnEncoding s.fb s.seq.col with
  | .ok p => if skipped p then nextColumn s else goto (.transmit p) s
  | .error st => goto (.close st) s

/-- Step 3b' (R166, R169 (a)): one `BusWrite` of the packet. -/
def transmit (p : Packet) (s : State) : Option State :=
  ask (.busWrite p)
    (fun a s =>
      match a with
      | .ok => goto .settle s
      | .fail => goto (.close .transport) s)
    s

/-- Step 3c (R167): one `Delay(T_COL)`, and on to the next column. -/
def settle (s : State) : State := nextColumn (emit (.delay s.cfg.tCol) s)

/-- Step 4 (R168): `emit BusClose; BUS.open <- 0; SEQ.busy <- 0`, then the response. -/
def release (st : Status) (s : State) : State :=
  respond ⟨st, .none⟩ (goIdle (setBusOpen false (emit .busClose s)))

/-- R160, the failed open with `CLOSE_AFTER_FAILED_OPEN`: `emit BusClose; SEQ.busy <- 0; raise TRANSPORT`. -/
def releaseUnopened (s : State) : State := raise .transport (goIdle (emit .busClose s))

/-- The event of the place the sequencer is at; none where the transport has not answered the call (R173). At the two
silent places there is no event; between two steps the sequencer is at neither (`BlockInv`). -/
def eventMove (s : State) : Option State :=
  match s.seq.point with
  | .openBus => openBus s
  | .closeUnopened => some (releaseUnopened s)
  | .setSpeed => setSpeed s
  | .loop => some s
  | .column => some s
  | .transmit p => transmit p s
  | .settle => some (settle s)
  | .close st => some (release st s)

/-- The parts of R160 that emit nothing: the loop test, and packing a column and skipping it or going on to send it. -/
def silentMove (s : State) : Option State :=
  match s.seq.point with
  | .loop => some (loopTest s)
  | .column => some (packColumn s)
  | .openBus => none
  | .closeUnopened => none
  | .setSpeed => none
  | .transmit _ => none
  | .settle => none
  | .close _ => none

/-- Silent moves, up to a number of them, until the sequencer is at the place of an event. -/
def seekFor : Nat → State → State
  | 0, s => s
  | k + 1, s =>
    match silentMove s with
    | none => s
    | some s' => seekFor k s'

/-- On to the place of the next event. A sweep of `n` iterations has at most 9 silent moves an iteration (its loop test
and 8 columns) and the last loop test. -/
def seek (s : State) : State := seekFor (9 * s.seq.n.toNat + 1) s

/-- R6 (3): one move of the sequencer, which emits one event; none where the transport has not answered (R173). -/
def sequencerMove (s : State) : Option State := (eventMove s).map seek

/-- The sequencer goes on by one event, or waits for the transport's answer. -/
def advance (s : State) : State := (sequencerMove s).getD s

/-- R160: DRAW begins, with its first event, the `BusOpen`; every further event is a step of the busy block (R6 (3); see
`busyStep`, log 3). -/
def execDraw (n : BitVec 16) (s : State) : Host.Outcome State Fault Refusal :=
  accept s fun s => advance (beginDraw n s)

/-- R56, R166: put a wire packet on the bus. Only the sequencer does (R33, R206), so this runs exactly when the sequencer
is at its step 3b' with that packet (log 9); an unanswered call waits (R173). -/
def execWirepkt (p : Packet) (s : State) : Host.Outcome State Fault Refusal :=
  if s.seq.busy = true ∧ s.seq.point = .transmit p then .next ((transmit p s).getD s)
  else .refused .packetNotOffered

/-- R59, R173: the call the block has made and the transport has not yet answered; it is not in the trace until it is
(log 20). -/
def outstanding (s : State) : Option Call :=
  if s.seq.busy then
    match s.seq.point with
    | .openBus => some (.busOpen s.cfg.busId s.cfg.deviceId)
    | .closeUnopened => none
    | .setSpeed => some (.busSetSpeed s.cfg.maxSpeedHz)
    | .transmit p => some (.busWrite p)
    | .loop => none
    | .column => none
    | .settle => none
    | .close _ => none
  else none

end Sys2Proof.Machine
end

