-- ==== Sys2Proof/Machine/Dispatch.lean ====
section
/-! DEFINITION. One arm per constructor of `Instr`, each one direct call of its meaning. -/

namespace Sys2Proof.Machine

def exec (i : Instr) (s : State) : Host.Outcome State Fault Refusal :=
  match i with
  | .setbit idx val => Sys2Proof.Machine.execSetbit idx val s
  | .clrbit idx val => Sys2Proof.Machine.execClrbit idx val s
  | .tstbit idx val => Sys2Proof.Machine.execTstbit idx val s
  | .b2byte f => Sys2Proof.Machine.execB2byte f s
  | .byte2b val => Sys2Proof.Machine.execByte2b val s
  | .enccol red green blue col => Sys2Proof.Machine.execEnccol red green blue col s
  | .decpkt p => Sys2Proof.Machine.execDecpkt p s
  | .setfrm mirror red green blue => Sys2Proof.Machine.execSetfrm mirror red green blue s
  | .draw n => Sys2Proof.Machine.execDraw n s
  | .wirepkt p => Sys2Proof.Machine.execWirepkt p s

end Sys2Proof.Machine
end

