-- ==== Sys2Proof/Machine/Port.lean ====
section
/-! DEFINITION. The request port and the sequencer as `step` sees them: taking the next input when idle, going on with a
DRAW in progress, and placing a table word where the next step runs it (30_encoding.md R76; 10_state.md R24; log 1,
log 3, log 10). -/

namespace Sys2Proof.Machine

/-- R76, R77, R194: the request the host presents is decoded from its bytes; an illegal one is answered
`ILLEGAL_REQUEST` with no other effect, a legal one is executed. -/
def serveRequest (bytes : List Byte) (s : State) : Host.Outcome State Fault Refusal :=
  match decodeRequest bytes with
  | .ok i => exec i s
  | .error _ => .next (raise .illegalRequest s)

/-- A step of an idle block: with nothing presented it stays as it is (R212). -/
def idleStep (s : State) : Host.Outcome State Fault Refusal :=
  match s.inputs with
  | [] => .next s
  | .reset :: rest => .next (applyReset { s with inputs := rest })
  | .request bytes :: rest => serveRequest bytes { s with inputs := rest }

/-- A DRAW in progress goes on by one event (R6 (3)), or does not change while the transport does not answer (R173). The
event that sends a packet is the packet's own meaning. -/
def continueDraw (s : State) : Host.Outcome State Fault Refusal :=
  match s.seq.point with
  | .transmit p => exec (.wirepkt p) s
  | _ => .next (advance s)

/-- A step of a block with a DRAW in progress. Requests wait (R76); the reset input is refused (R220). DESIGN CHOICE (log
8): a reset at the head of the list counts as asserted at once, and so during the DRAW; it does not wait for the DRAW's
end as a request there does. -/
def busyStep (s : State) : Host.Outcome State Fault Refusal :=
  match s.inputs with
  | .reset :: _ => .refused .resetDuringRequest
  | _ => continueDraw s

/-- Leave whatever DRAW is in progress: the port takes no request before (used by `presentWord` only). -/
def quiet (s : State) : State :=
  if s.seq.busy then goIdle (setBusOpen false s) else s

/-- The sequencer at step 3b' with a packet, and no reset input in the way (used by `presentWord` only). -/
def offerPacket (p : Packet) (s : State) : State :=
  let s := goto (.transmit p) (setBusOpen true s)
  { s with
    seq := { s.seq with busy := true },
    inputs := s.inputs.dropWhile fun i => decide (i = .reset) }

/-- Put a table word where the next step runs it: a request on the request port, a wire packet in the sequencer
(log 10). -/
def presentWord (nbits w : Nat) (s : State) : State :=
  if tableWordIsPacket nbits w then offerPacket (tablePacket w) s
  else
    let s := quiet s
    { s with inputs := .request (tableBytes nbits w) :: s.inputs }

end Sys2Proof.Machine
end

