-- ==== Sys2Proof/Machine/Step.lean ====
section
/-! DEFINITION. One step of the block, and where the host's words go. -/

namespace Sys2Proof.Machine

/-- R6, R58, R76: an idle block takes the next input; a busy one goes on with its DRAW. -/
def step (s : State) : Host.Outcome State Fault Refusal :=
  if s.seq.busy then busyStep s else idleStep s

/-- The state in which the very next step runs the instruction of a table word (log 10). -/
def State.withFetchWord (s : State) (nbits w : Nat) : State := presentWord nbits w s

end Sys2Proof.Machine
end

