-- ==== Sys2Proof/Machine/Response.lean ====
section
/-! DEFINITION. The bytes of a response (30_encoding.md R85). -/

namespace Sys2Proof.Machine

/-- R85: the status codes. -/
def Status.code : Status → Byte
  | .ok => 0x00#8
  | .indexRange => 0x01#8
  | .shape => 0x02#8
  | .transport => 0x03#8
  | .illegalRequest => 0x04#8

/-- R85, R134: the two-bit code of a decoded pixel; 3 is never produced. -/
def Tri.code : Tri → BitVec 2
  | .unlit => 0#2
  | .lit => 1#2
  | .unknown => 2#2

/-- R85: a decoded row as a 16-bit word, the cell of column `c` in bits `[2c+1:2c]`. -/
def rowWord (row : Vector Tri 8) : BitVec 16 :=
  Tri.code row[7] ++ Tri.code row[6] ++ Tri.code row[5] ++ Tri.code row[4] ++
    Tri.code row[3] ++ Tri.code row[2] ++ Tri.code row[1] ++ Tri.code row[0]

/-- R77, R85: a 16-bit number, low byte first. -/
def littleEndian (w : BitVec 16) : List Byte := [w.setWidth 8, (w >>> 8).setWidth 8]

/-- R85: a decoded grid, rows 0 to 7. -/
def gridBytes (g : TriGrid) : List Byte := g.toList.flatMap fun row => littleEndian (rowWord row)

/-- R85: eight flags in one byte, bit `k` = flag `k` (positive logic). -/
def flagsByte (f : Flags8) : Byte :=
  (List.finRange 8).foldl (fun b k => if f.get k then b ||| 1#8 <<< k.val else b) 0#8

/-- R85: the result bytes of each operation. -/
def Result.bytes : Result → List Byte
  | .none => []
  | .byte b => [b]
  | .flag f => [if f then 1#8 else 0#8]
  | .flags f => [flagsByte f]
  | .packet p => [p.p0, p.p1, p.p2, p.p3]
  | .grids r g b => gridBytes r ++ gridBytes g ++ gridBytes b

/-- R85: the status byte, and the result bytes when the status is `OK`. -/
def Response.bytes (r : Response) : List Byte :=
  match r.status with
  | .ok => Status.code .ok :: r.result.bytes
  | .indexRange => [Status.code .indexRange]
  | .shape => [Status.code .shape]
  | .transport => [Status.code .transport]
  | .illegalRequest => [Status.code .illegalRequest]

/-- R11 (a), R76: what the response port has presented, each response as its bytes, oldest first. -/
def presentedBytes (s : State) : List (List Byte) := s.responses.map Response.bytes

end Sys2Proof.Machine
end

