-- ==== Sys2Proof/Safety.lean ====
section
/-! DEFINITION. The terms claims are stated in: what a legal request is (30_encoding.md R77, R78, R87), the events of a
DRAW as a function of the frame (43_sequencer.md R164, R170, R174), the discipline of the bus (43_sequencer.md R168;
60_exceptions.md R209), and the invariant every step keeps. Nothing in the machine uses this file. -/

namespace Sys2Proof.Machine

/-! Requests. -/

/-- R78: opcode and length of each of the nine requests. -/
def requestFormats : List (Byte × Nat) :=
  [(0x01#8, 3), (0x02#8, 3), (0x03#8, 3), (0x04#8, 4), (0x05#8, 2), (0x10#8, 11), (0x11#8, 5), (0x20#8, 26), (0x30#8, 3)]

/-- R77, R87: the opcode is in the table, the length is its format's, every `FlagSeq.len` is at most 16 (bytes 1 of FS;
1, 4 and 7 of EC) and `mirror` (byte 1 of FR) is 0 or 1. -/
def LegalRequest (bs : List Byte) : Prop :=
  ∃ f ∈ requestFormats, bs.head? = some f.1 ∧ bs.length = f.2 ∧
    (f.1 = 0x04#8 → (bs.getD 1 0#8).toNat ≤ 16) ∧
    (f.1 = 0x10#8 → (bs.getD 1 0#8).toNat ≤ 16 ∧ (bs.getD 4 0#8).toNat ≤ 16 ∧ (bs.getD 7 0#8).toNat ≤ 16) ∧
    (f.1 = 0x20#8 → (bs.getD 1 0#8).toNat ≤ 1)

/-- The seven pure operations (10_state.md, introduction; R136). -/
def PureOperation : Instr → Prop
  | .setbit _ _ => True
  | .clrbit _ _ => True
  | .tstbit _ _ => True
  | .b2byte _ => True
  | .byte2b _ => True
  | .enccol _ _ _ _ => True
  | .decpkt _ => True
  | .setfrm _ _ _ _ => False
  | .draw _ => False
  | .wirepkt _ => False

/-- R190: the statuses an accepted request can end with. -/
def allowedStatuses : Instr → List Status
  | .setbit _ _ => [.ok, .indexRange]
  | .clrbit _ _ => [.ok, .indexRange]
  | .tstbit _ _ => [.ok, .indexRange]
  | .b2byte _ => [.ok, .shape]
  | .byte2b _ => [.ok]
  | .enccol _ _ _ _ => [.ok, .shape, .indexRange]
  | .decpkt _ => [.ok]
  | .setfrm _ _ _ _ => [.ok]
  | .draw _ => [.ok, .transport]
  | .wirepkt _ => []

/-- Apply a function to the next state of an outcome. -/
def mapNext (f : State → State) : Host.Outcome State Fault Refusal → Host.Outcome State Fault Refusal
  | .next s => .next (f s)
  | .fault e => .fault e
  | .refused r => .refused r

/-- `k` steps of the machine. -/
def run (k : Nat) (s : State) : Host.Outcome State Fault Refusal := core.run k s

/-! The pixels and the packets of a frame. -/

/-- R20: `FB.ch[k][c]`. -/
def pixel (g : Grid) (k c : Fin 8) : Bool := (g.get k).getLsbD c.val

/-- R165, R170: column `c` has at least one lit pixel in some channel. -/
def columnLit (fb : FrameBuffer) (c : Fin 8) : Bool :=
  decide (∃ k : Fin 8, pixel fb.r k c = true ∨ pixel fb.g k c = true ∨ pixel fb.b k c = true)

/-- R164, R174 `W(c)`: the packet of column `c`, in wire order. -/
def columnPacket (fb : FrameBuffer) (c : Nat) : Packet :=
  ⟨packFlags (slice fb.r c), packFlags (slice fb.b c), packFlags (slice fb.g c), bitMask c⟩

/-- R174 `S`: the columns of the frame that are sent, in increasing order. -/
def sentColumns (fb : FrameBuffer) : List (Fin 8) := (List.finRange 8).filter (columnLit fb)

/-- R174: the events of one iteration, every answer `ok`. -/
def sweepEvents (cfg : Cfg) (fb : FrameBuffer) : List Event :=
  (sentColumns fb).flatMap fun c => [.call (.busWrite (columnPacket fb c.val)) .ok, .delay cfg.tCol]

/-- R174: the events of a DRAW of `n` iterations, every answer `ok`. -/
def drawEvents (cfg : Cfg) (fb : FrameBuffer) (n : Nat) : List Event :=
  [.call (.busOpen cfg.busId cfg.deviceId) .ok] ++
    (if cfg.speedEn then [.call (.busSetSpeed cfg.maxSpeedHz) .ok] else []) ++
    (List.replicate n (sweepEvents cfg fb)).flatten ++ [.busClose]

/-- The calls of a whole DRAW: one open, one speed setting if enabled, one write for each sent column of each iteration
(R170). -/
def drawCalls (cfg : Cfg) (fb : FrameBuffer) (n : Nat) : Nat :=
  1 + cfg.speedEn.toNat + n * (sentColumns fb).length

/-- The events before the call numbered `j` (from 0). -/
def eventsBeforeCall : Nat → List Event → List Event
  | _, [] => []
  | 0, .call _ _ :: _ => []
  | j + 1, .call c a :: es => .call c a :: eventsBeforeCall j es
  | j, .delay t :: es => .delay t :: eventsBeforeCall j es
  | j, .busClose :: es => .busClose :: eventsBeforeCall j es

/-- The call numbered `j` (from 0). -/
def callAt : Nat → List Event → Option Call
  | _, [] => none
  | 0, .call c _ :: _ => some c
  | j + 1, .call _ _ :: es => callAt j es
  | j, .delay _ :: es => callAt j es
  | j, .busClose :: es => callAt j es

/-! The discipline of the bus, read off the trace alone. -/

/-- What the trace so far allows next. -/
inductive BusPhase where
  /-- Not open. -/
  | closed
  /-- An open failed and `CLOSE_AFTER_FAILED_OPEN` is true: one `BusClose` is due. -/
  | failedOpen
  /-- Open, `CFG.SPEED_EN` is 1: the `BusSetSpeed` is due. -/
  | speedDue
  /-- Open: a `BusWrite` or the `BusClose` may come. -/
  | ready
  /-- A `BusWrite` was answered `ok`: its `Delay` is due. -/
  | delayDue
  /-- A call was answered `fail`: the `BusClose` is due. -/
  | closeDue
  deriving DecidableEq, Repr

/-- R161, R162, R166 to R169, R171, R209: what may follow what. A packet on the bus has a one-hot column byte and at
least one lit pixel. -/
def busNext (cfg : Cfg) (ph : BusPhase) (e : Event) : Option BusPhase :=
  match ph, e with
  | .closed, .call (.busOpen b d) a =>
    if b = cfg.busId ∧ d = cfg.deviceId then
      match a with
      | .ok => some (if cfg.speedEn then .speedDue else .ready)
      | .fail => some (if cfg.closeAfterFailedOpen then .failedOpen else .closed)
    else none
  | .failedOpen, .busClose => some .closed
  | .speedDue, .call (.busSetSpeed hz) a =>
    if hz = cfg.maxSpeedHz then
      match a with
      | .ok => some .ready
      | .fail => some .closeDue
    else none
  | .ready, .call (.busWrite p) a =>
    if columnSelectValid p.p3 = true ∧ skipped p = false then
      match a with
      | .ok => some .delayDue
      | .fail => some .closeDue
    else none
  | .ready, .busClose => some .closed
  | .delayDue, .delay t => if t = cfg.tCol then some .ready else none
  | .closeDue, .busClose => some .closed
  | _, _ => none

/-- The phase a trace leads to from a phase; none where it breaks the discipline. -/
def busAfter (cfg : Cfg) (ph : BusPhase) : List Event → Option BusPhase
  | [] => some ph
  | e :: es =>
    match busNext cfg ph e with
    | some ph' => busAfter cfg ph' es
    | none => none

/-- The phase the sequencer's place stands for. -/
def seqPhase (s : State) : BusPhase :=
  if s.seq.busy then
    match s.seq.point with
    | .openBus => .closed
    | .closeUnopened => .failedOpen
    | .setSpeed => .speedDue
    | .loop => .ready
    | .column => .ready
    | .transmit _ => .ready
    | .settle => .delayDue
    | .close .ok => .ready
    | .close _ => .closeDue
  else .closed

/-- R163, R164, R169, R171: what is true of the sequencer's registers at its place. -/
def seqConsistent (s : State) : Prop :=
  match s.seq.point with
  | .openBus => True
  | .closeUnopened => s.cfg.closeAfterFailedOpen = true
  | .setSpeed => s.cfg.speedEn = true
  | .loop => False
  | .column => False
  | .transmit p =>
    s.seq.iter.toNat < s.seq.n.toNat ∧ p = columnPacket s.fb s.seq.col.toNat ∧ skipped p = false
  | .settle => s.seq.iter.toNat < s.seq.n.toNat
  | .close st => (st = .ok ∧ s.seq.iter = s.seq.n) ∨ st = .transport

/-- The invariant: the trace keeps the bus discipline and stands where the sequencer stands; `BUS.open` is 1 exactly
while a DRAW is past its open (R34); a busy sequencer is at the place of an event, and its registers fit that place. The
model's choices: the place is a field of its own (log 21), between two steps it is the place of an event, the silent work
being done (log 3), and the trace stands before a call that is not yet answered (log 20). -/
def BlockInv (s : State) : Prop :=
  busAfter s.cfg .closed s.trace = some (seqPhase s) ∧
    s.busOpen = decide (s.seq.busy = true ∧ s.seq.point ≠ .openBus ∧ s.seq.point ≠ .closeUnopened) ∧
    (s.seq.busy = true → seqConsistent s)

/-! The sequencer registers no rule reads. -/

/-- R25, U10: the state with every `SEQ` register the next move does not read replaced by its reset value: all of them
while idle; `iter` and `col` before the sweep starts; `col` at the loop test, which writes it; all counters at a
close. -/
def eraseUnread (s : State) : State :=
  if s.seq.busy then
    match s.seq.point with
    | .openBus => { s with seq := { s.seq with iter := 0#16, col := 0#3 } }
    | .closeUnopened => { s with seq := { s.seq with n := 0#16, iter := 0#16, col := 0#3 } }
    | .setSpeed => { s with seq := { s.seq with iter := 0#16, col := 0#3 } }
    | .loop => { s with seq := { s.seq with col := 0#3 } }
    | .column => s
    | .transmit _ => s
    | .settle => s
    | .close _ => { s with seq := { s.seq with n := 0#16, iter := 0#16, col := 0#3 } }
  else { s with seq := resetSeq }

end Sys2Proof.Machine
end

