-- ==== Sys2Proof/Certificates/Slice0/Obligations.lean ====
section
/-! DEFINITION. The statements for the provers. Premises: a state is `idle` when `s.seq.busy = false` (10_state.md R25);
`{ s with … }` lists everything that changes, so each such statement is the instruction's frame too. -/

open Sys2Proof Sys2Proof.Machine

/-! Encodings. -/

/-- 30_encoding.md R77 to R84 and R70: no operand bit of an encoding is dropped. -/
def Obligations.DecodeEncodeRoundTrip : Prop :=
  ∀ i : Instr, i.wellFormed = true → decode i.channel (encode i) = .ok i

/-- The other direction: a decoded request is well formed, has the length of its encoding, and but for the bits R80 says
are ignored (B2BYTE, ENCCOL) its bytes are its encoding. -/
def Obligations.DecodedRequestsAreWellFormed : Prop :=
  ∀ (bs : List Byte) (i : Instr), decodeRequest bs = .ok i →
    i.wellFormed = true ∧ i.channel = .requestPort ∧ bs.length = (encode i).length ∧
      (((∀ f, i ≠ .b2byte f) ∧ (∀ r g b c, i ≠ .enccol r g b c)) → encode i = bs)

/-- R80: the `FlagSeq` operand, shown in B2BYTE: `len` elements, element `k` at bit `k` of `f_lo` and bit `k - 8` of
`f_hi`; a `len` above 16 is illegal. -/
def Obligations.FlagSeqOperandReading : Prop :=
  ∀ len lo hi : Byte,
    (16 < len.toNat → ∃ e, decodeRequest [0x04#8, len, lo, hi] = .error e) ∧
    (len.toNat ≤ 16 → ∃ f : FlagSeq, decodeRequest [0x04#8, len, lo, hi] = .ok (.b2byte f) ∧
      f.length = len.toNat ∧
      ∀ k, k < len.toNat → f.getD k false = if k < 8 then lo.getLsbD k else hi.getLsbD (k - 8))

/-- R81, R82, R84: the operand bytes of BYTE2B, ENCCOL (three `FlagSeq` in the order red, green, blue, then `col`),
DECPKT (wire order) and DRAW (16 bits, low byte first). -/
def Obligations.OperandsInFormatOrder : Prop :=
  (∀ v : Byte, decodeRequest [0x05#8, v] = .ok (.byte2b v)) ∧
  (∀ (rl r0 r1 gl g0 g1 bl b0 b1 col : Byte) (r g b : FlagSeq),
    decodeRequest [0x04#8, rl, r0, r1] = .ok (.b2byte r) → decodeRequest [0x04#8, gl, g0, g1] = .ok (.b2byte g) →
    decodeRequest [0x04#8, bl, b0, b1] = .ok (.b2byte b) →
    decodeRequest [0x10#8, rl, r0, r1, gl, g0, g1, bl, b0, b1, col] = .ok (.enccol r g b col)) ∧
  (∀ p0 p1 p2 p3 : Byte, decodeRequest [0x11#8, p0, p1, p2, p3] = .ok (.decpkt ⟨p0, p1, p2, p3⟩)) ∧
  (∀ lo hi : Byte, ∃ n : BitVec 16, decodeRequest [0x30#8, lo, hi] = .ok (.draw n) ∧
    n.toNat = lo.toNat + 256 * hi.toNat)

/-- 60_exceptions.md R194: exactly the requests that are not legal are answered `ILLEGAL_REQUEST`, from their bytes
alone, with no other effect; a legal one is executed. -/
def Obligations.IllegalRequestsAreAnswered : Prop :=
  ∀ (s : State) (bs : List Byte) (rest : List HostInput),
    s.seq.busy = false → s.inputs = .request bs :: rest →
    (¬ LegalRequest bs →
      step s = .next { s with inputs := rest, responses := s.responses ++ [⟨.illegalRequest, .none⟩] }) ∧
    (LegalRequest bs → ∃ i, decodeRequest bs = .ok i ∧ step s = exec i { s with inputs := rest })

/-- Words written out from R77 to R80, R82, R84 and R70 decode to what they stand for: four requests, two illegal ones and
a wire packet. -/
def Obligations.SampleWordsDecode : Prop :=
  decodeRequest [0x01#8, 0x03#8, 0x00#8] = .ok (.setbit 3#8 0#8) ∧
  decodeRequest [0x04#8, 0x05#8, 0x15#8, 0x00#8] = .ok (.b2byte [true, false, true, false, true]) ∧
  decodeRequest [0x11#8, 0xFE#8, 0xFF#8, 0xFF#8, 0x08#8] = .ok (.decpkt ⟨0xFE#8, 0xFF#8, 0xFF#8, 0x08#8⟩) ∧
  decodeRequest [0x30#8, 0x03#8, 0x01#8] = .ok (.draw 0x0103#16) ∧
  decodeRequest [0x01#8, 0x03#8] = .error .wrongLength ∧
  decodeRequest [0x06#8, 0x00#8, 0x00#8] = .error (.reservedOpcode 0x06#8) ∧
  decodeBus [0xFE#8, 0xFF#8, 0xFF#8, 0x08#8] = .ok (.wirepkt ⟨0xFE#8, 0xFF#8, 0xFF#8, 0x08#8⟩)

/-- R85: the response bytes. A grid's row word has the code of column `c` in bits `[2c+1:2c]`, low byte first; 0, 1 and 2
stand for `Unlit`, `Lit` and `Unknown`. -/
def Obligations.ResponseBytesLayout : Prop :=
  (∀ v, Response.bytes ⟨.indexRange, v⟩ = [0x01#8]) ∧
  (∀ v, Response.bytes ⟨.shape, v⟩ = [0x02#8]) ∧
  (∀ v, Response.bytes ⟨.transport, v⟩ = [0x03#8]) ∧
  (∀ v, Response.bytes ⟨.illegalRequest, v⟩ = [0x04#8]) ∧
  Response.bytes ⟨.ok, .none⟩ = [0x00#8] ∧
  (∀ b, Response.bytes ⟨.ok, .byte b⟩ = [0x00#8, b]) ∧
  (∀ f, Response.bytes ⟨.ok, .flag f⟩ = [0x00#8, if f then 0x01#8 else 0x00#8]) ∧
  (∀ f : Flags8, ∃ b : Byte, Response.bytes ⟨.ok, .flags f⟩ = [0x00#8, b] ∧ ∀ k : Fin 8, b.getLsbD k.val = f.get k) ∧
  (∀ p, Response.bytes ⟨.ok, .packet p⟩ = [0x00#8, p.p0, p.p1, p.p2, p.p3]) ∧
  (∀ red green blue : TriGrid, ∃ l : List Byte,
    Response.bytes ⟨.ok, .grids red green blue⟩ = 0x00#8 :: l ∧ l.length = 48 ∧
    ∀ r c : Fin 8, ∀ x ∈ [(0, red), (16, green), (32, blue)],
      (l.getD (x.1 + 2 * r.val + 1) 0#8 ++ l.getD (x.1 + 2 * r.val) 0#8).extractLsb' (2 * c.val) 2 =
        match (x.2.get r).get c with
        | .unlit => 0#2
        | .lit => 1#2
        | .unknown => 2#2)

/-! Steps. -/

/-- A step of an idle block whose next input is a request that decodes runs exactly that instruction, on the state with
the request taken from the port. -/
def Obligations.StepRunsDecodedRequest : Prop :=
  ∀ (s : State) (bs : List Byte) (rest : List HostInput) (i : Instr),
    s.seq.busy = false → s.inputs = .request bs :: rest → decodeRequest bs = .ok i →
    step s = exec i { s with inputs := rest }

/-- A step of a busy block, no reset input being presented: the packet the sequencer is at the point of sending is
executed as WIREPKT; at every other place the sequencer makes its next event, or waits. The model's choices: the event
of a packet is WIREPKT (log 9); an event's step does the silent work behind it (log 3); the form of the wait, an empty
list of answers being an unanswered call at which a step leaves the state as it is (log 2), the call not being in the
trace before it is answered (log 20). -/
def Obligations.StepContinuesDraw : Prop :=
  ∀ s : State, s.seq.busy = true → (∀ rest, s.inputs ≠ .reset :: rest) →
    (∀ p, s.seq.point = .transmit p → step s = exec (.wirepkt p) s) ∧
    ((∀ p, s.seq.point ≠ .transmit p) →
      (∀ t, sequencerMove s = some t → step s = .next t) ∧ (sequencerMove s = none → step s = .next s))

/-- 00_scope.md R6 (3): a DRAW is a sequence of steps, each of which emits one event. The request's own step emits the
`BusOpen`; every step of a DRAW in progress emits exactly one event, unless it waits for the transport (R173), where it
changes nothing; and no step of the machine whatever adds more than one event (a reset empties the trace). The model's
choices: the request's own step is the `BusOpen`'s (log 3); an empty list of answers is an unanswered call, at which a
step changes nothing (log 2); a call is not in the trace before it is answered (log 20). -/
def Obligations.EveryDrawStepEmitsOneEvent : Prop :=
  (∀ (n : BitVec 16) (s : State), s.seq.busy = false → ∃ t : State, exec (.draw n) s = .next t ∧
    (s.answers = [] → t.seq.busy = true ∧ t.trace = s.trace ∧ t.responses = s.responses) ∧
    (∀ a rest, s.answers = a :: rest →
      t.trace = s.trace ++ [.call (.busOpen s.cfg.busId s.cfg.deviceId) a] ∧ t.answers = rest)) ∧
  (∀ s : State, BlockInv s → s.seq.busy = true → (∀ rest, s.inputs ≠ .reset :: rest) →
    (s.answers ≠ [] ∨ outstanding s = none → ∃ (t : State) (e : Event), step s = .next t ∧ t.trace = s.trace ++ [e]) ∧
    (s.answers = [] → outstanding s ≠ none → step s = .next s)) ∧
  (∀ s t : State, step s = .next t →
    t.trace = s.trace ∨ (∃ e, t.trace = s.trace ++ [e]) ∨ ((∃ rest, s.inputs = .reset :: rest) ∧ t.trace = []))

/-- Nothing presented to an idle block: it stays as it is (log 1, the model's choice). -/
def Obligations.StepWithNothingPresented : Prop :=
  ∀ s : State, s.seq.busy = false → s.inputs = [] → step s = .next s

/-! Unit 1. -/

/-- R100, in full: encoding, result, error, and that nothing but the response changes. -/
def Obligations.SetbitResult : Prop :=
  ∀ (idx val : Byte) (s : State), s.seq.busy = false →
    decodeRequest [0x01#8, idx, val] = .ok (.setbit idx val) ∧
    exec (.setbit idx val) s = .next { s with responses := s.responses ++
      [if idx.toNat ≤ 7 then ⟨.ok, .byte (val ||| 1#8 <<< idx.toNat)⟩ else ⟨.indexRange, .none⟩] }

/-- R101, in full. -/
def Obligations.ClrbitResult : Prop :=
  ∀ (idx val : Byte) (s : State), s.seq.busy = false →
    decodeRequest [0x02#8, idx, val] = .ok (.clrbit idx val) ∧
    exec (.clrbit idx val) s = .next { s with responses := s.responses ++
      [if idx.toNat ≤ 7 then ⟨.ok, .byte (val &&& ~~~(1#8 <<< idx.toNat))⟩ else ⟨.indexRange, .none⟩] }

/-- R102, in full. -/
def Obligations.TstbitResult : Prop :=
  ∀ (idx val : Byte) (s : State), s.seq.busy = false →
    decodeRequest [0x03#8, idx, val] = .ok (.tstbit idx val) ∧
    exec (.tstbit idx val) s = .next { s with responses := s.responses ++
      [if idx.toNat ≤ 7 then ⟨.ok, .flag (val.getLsbD idx.toNat)⟩ else ⟨.indexRange, .none⟩] }

/-- R105: the laws of the three single-bit operations; operations on different bits commute. -/
def Obligations.SingleBitLaws : Prop :=
  ∀ (v : Byte) (i j : Nat), i < 8 → j < 8 →
    testBit i (setBit i v) = true ∧ testBit i (clearBit i v) = false ∧
    setBit i (clearBit i v) = setBit i v ∧ clearBit i (setBit i v) = clearBit i v ∧
    (j ≠ i →
      testBit j (setBit i v) = testBit j v ∧ testBit j (clearBit i v) = testBit j v ∧
      setBit i (setBit j v) = setBit j (setBit i v) ∧ clearBit i (clearBit j v) = clearBit j (clearBit i v) ∧
      setBit i (clearBit j v) = clearBit j (setBit i v))

/-- R103: eight flags give the byte whose bit `k` is `1 - f[k]`; any other length is `SHAPE`. -/
def Obligations.B2byteResult : Prop :=
  ∀ (f : FlagSeq) (s : State), s.seq.busy = false →
    (f.length ≤ 16 → decodeRequest (0x04#8 :: encodeFlagSeq f) = .ok (.b2byte f)) ∧
    (f.length = 8 → ∃ b : Byte, (∀ k, k < 8 → b.getLsbD k = !f.getD k false) ∧
      exec (.b2byte f) s = .next { s with responses := s.responses ++ [⟨.ok, .byte b⟩] }) ∧
    (f.length ≠ 8 → exec (.b2byte f) s = .next { s with responses := s.responses ++ [⟨.shape, .none⟩] })

/-- R104: flag `k` is 1 (lit) where bit `k` is clear; no error. -/
def Obligations.Byte2bResult : Prop :=
  ∀ (val : Byte) (s : State), s.seq.busy = false →
    decodeRequest [0x05#8, val] = .ok (.byte2b val) ∧
    ∃ f : Flags8, (∀ k : Fin 8, f.get k = !val.getLsbD k.val) ∧
      exec (.byte2b val) s = .next { s with responses := s.responses ++ [⟨.ok, .flags f⟩] }

/-- R107: B2BYTE on length-8 sequences and BYTE2B are inverse to each other, both ways. -/
def Obligations.FlagConversionsRoundTrip : Prop :=
  (∀ f : Flags8, ∃ b : Byte, bitsToByte f.toList = .ok b ∧ byteToBits b = f) ∧
  (∀ v : Byte, bitsToByte (byteToBits v).toList = .ok v)

/-! Units 2 and 3. -/

/-- R130, with the order of checks of R196 and the channel swap of R139: three sequences of 8 and a column in 0..7 give
the packet red, blue, green, `1 << col`; a wrong length anywhere is `SHAPE`, then a wrong column `INDEX_RANGE`. -/
def Obligations.EnccolResult : Prop :=
  ∀ (red green blue : FlagSeq) (col : Byte) (s : State), s.seq.busy = false →
    (red.length ≤ 16 ∧ green.length ≤ 16 ∧ blue.length ≤ 16 →
      decodeRequest (0x10#8 :: (encodeFlagSeq red ++ encodeFlagSeq green ++ encodeFlagSeq blue ++ [col])) =
        .ok (.enccol red green blue col)) ∧
    (red.length = 8 ∧ green.length = 8 ∧ blue.length = 8 ∧ col.toNat ≤ 7 → ∃ p : Packet,
      (∀ k, k < 8 → p.p0.getLsbD k = !red.getD k false ∧ p.p1.getLsbD k = !blue.getD k false ∧
        p.p2.getLsbD k = !green.getD k false) ∧
      p.p3 = 1#8 <<< col.toNat ∧
      exec (.enccol red green blue col) s = .next { s with responses := s.responses ++ [⟨.ok, .packet p⟩] }) ∧
    (red.length ≠ 8 ∨ green.length ≠ 8 ∨ blue.length ≠ 8 →
      exec (.enccol red green blue col) s = .next { s with responses := s.responses ++ [⟨.shape, .none⟩] }) ∧
    (red.length = 8 ∧ green.length = 8 ∧ blue.length = 8 ∧ 7 < col.toNat →
      exec (.enccol red green blue col) s = .next { s with responses := s.responses ++ [⟨.indexRange, .none⟩] })

/-- R131: an encoder result always has exactly one bit in its column byte, the column's; above 7 there is no result. -/
def Obligations.EncodedColumnByteIsOneHot : Prop :=
  ∀ (red green blue : FlagSeq) (col : Byte) (p : Packet), encodeColumn red green blue col = .ok p →
    col.toNat < 8 ∧ p.p3 = 1#8 <<< col.toNat ∧ popcount p.p3 = 1

/-- R133: the active column is the index of the single 1 bit; the other 248 values have none. -/
def Obligations.ActiveColumnOfOneHot : Prop :=
  ∀ (cb : Byte) (c : Nat), activeCol cb = some c ↔ c < 8 ∧ cb = 1#8 <<< c

/-- R132: any four bytes decode with status `OK`: the active column of each grid from its colour byte (red 0, blue 1,
green 2), `Unknown` everywhere else. -/
def Obligations.DecpktResult : Prop :=
  ∀ (p : Packet) (s : State), s.seq.busy = false →
    decodeRequest [0x11#8, p.p0, p.p1, p.p2, p.p3] = .ok (.decpkt p) ∧
    ∃ rg gg bg : TriGrid,
      exec (.decpkt p) s = .next { s with responses := s.responses ++ [⟨.ok, .grids rg gg bg⟩] } ∧
      ∀ r c : Fin 8, ∀ x ∈ [(rg, p.p0), (bg, p.p1), (gg, p.p2)],
        (x.1.get r).get c =
          if p.p3 = 1#8 <<< c.val then (if x.2.getLsbD r.val then .unlit else .lit) else .unknown

/-- R135: decode of encode recovers the flags at the column and `Unknown` elsewhere; encode of a decode with an active
column gives the packet back; without one the decode loses the colour bytes and no encode gives the packet. -/
def Obligations.CodecRoundTrip : Prop :=
  (∀ (r g b : Flags8) (c : Fin 8), ∃ (p : Packet) (rg gg bg : TriGrid),
    encodeColumn r.toList g.toList b.toList (BitVec.ofNat 8 c.val) = .ok p ∧ decodePacket p = .grids rg gg bg ∧
    ∀ k c' : Fin 8, ∀ x ∈ [(rg, r), (gg, g), (bg, b)],
      (x.1.get k).get c' = if c' = c then (if x.2.get k then .lit else .unlit) else .unknown) ∧
  (∀ (p : Packet) (a : Fin 8) (rg gg bg : TriGrid), activeCol p.p3 = some a.val → decodePacket p = .grids rg gg bg →
    encodeColumn (rg.toList.map fun row => decide (row.get a = .lit)) (gg.toList.map fun row => decide (row.get a = .lit))
      (bg.toList.map fun row => decide (row.get a = .lit)) (BitVec.ofNat 8 a.val) = .ok p) ∧
  (∀ p p' : Packet, activeCol p.p3 = none → activeCol p'.p3 = none → decodePacket p = decodePacket p') ∧
  (∀ (p : Packet) (r g b : FlagSeq) (col : Byte), activeCol p.p3 = none → encodeColumn r g b col ≠ .ok p)

/-- R136, for all seven pure operations: one answer for the operands, whatever the state that accepts them; nothing else
changes. -/
def Obligations.PureOperationsDependOnOperandsAlone : Prop :=
  ∀ i : Instr, PureOperation i → ∃ r : Response, ∀ s : State, s.seq.busy = false →
    exec i s = .next { s with responses := s.responses ++ [r] }

/-! The frame buffer. -/

/-- R150: all 24 rows, from row `7 - r` of the operand when `mirror` is 1; one `OK` response; nothing else changes. -/
def Obligations.SetfrmResult : Prop :=
  ∀ (mirror : Bool) (red green blue : Grid) (s : State), s.seq.busy = false →
    decodeRequest (0x20#8 :: (if mirror then 1#8 else 0#8) :: (red.toList ++ green.toList ++ blue.toList)) =
      .ok (.setfrm mirror red green blue) ∧
    ∃ fb : FrameBuffer,
      exec (.setfrm mirror red green blue) s =
        .next { s with fb := fb, responses := s.responses ++ [⟨.ok, .none⟩] } ∧
      ∀ r src : Fin 8, src.val = (if mirror then 7 - r.val else r.val) →
        fb.r.get r = red.get src ∧ fb.g.get r = green.get src ∧ fb.b.get r = blue.get src

/-- R151: a pixel at (r, c) of the operand is stored at (7 - r, c); on the wire the bits of every colour byte appear in
reversed order, and the column-select bytes and the order of the packets sent are unchanged. -/
def Obligations.MirrorReversesColourBits : Prop :=
  ∀ (red green blue : Grid) (s t : State), s.seq.busy = false → exec (.setfrm true red green blue) s = .next t →
    (∀ r c : Fin 8, pixel t.fb.r r.rev c = pixel red r c ∧ pixel t.fb.g r.rev c = pixel green r c ∧
      pixel t.fb.b r.rev c = pixel blue r c) ∧
    sentColumns t.fb = sentColumns ⟨red, green, blue⟩ ∧
    ∀ c : Fin 8,
      (columnPacket t.fb c.val).p3 = (columnPacket ⟨red, green, blue⟩ c.val).p3 ∧
      ∀ k : Fin 8,
        (columnPacket t.fb c.val).p0.getLsbD k.val = (columnPacket ⟨red, green, blue⟩ c.val).p0.getLsbD (7 - k.val) ∧
        (columnPacket t.fb c.val).p1.getLsbD k.val = (columnPacket ⟨red, green, blue⟩ c.val).p1.getLsbD (7 - k.val) ∧
        (columnPacket t.fb c.val).p2.getLsbD k.val = (columnPacket ⟨red, green, blue⟩ c.val).p2.getLsbD (7 - k.val)

/-- R154, R21: no operation but SETFRM writes the frame buffer, whatever the state and the transport's answers; nor does
any later step of a DRAW. -/
def Obligations.OnlySetfrmWritesTheFrame : Prop :=
  (∀ (i : Instr) (s t : State), (∀ m r g b, i ≠ .setfrm m r g b) → exec i s = .next t → t.fb = s.fb) ∧
  (∀ s t : State, s.seq.busy = true → step s = .next t → t.fb = s.fb)

/-! The sequencer. -/

/-- R164: the packet of a column, bit by bit: red, blue, green, `1 << c`; and it is what the sequencer packs. -/
def Obligations.ColumnPacketBits : Prop :=
  ∀ (fb : FrameBuffer) (c : BitVec 3), ∃ p : Packet, columnEncoding fb c = .ok p ∧
    p.p3 = 1#8 <<< c.toNat ∧
    ∀ k c' : Fin 8, c'.val = c.toNat →
      p.p0.getLsbD k.val = !pixel fb.r k c' ∧ p.p1.getLsbD k.val = !pixel fb.b k c' ∧
      p.p2.getLsbD k.val = !pixel fb.g k c'

/-- R165: the three colour bytes of a column are all 0xFF exactly when it has no lit pixel; such a column is skipped with
no event and the sweep goes to the next column; one lit pixel is enough for the column to be sent. -/
def Obligations.UnlitColumnsAreSkipped : Prop :=
  ∀ (s : State) (c : Fin 8), s.seq.busy = true → s.seq.point = .column → c.val = s.seq.col.toNat →
    (columnLit s.fb c = false ↔ (columnPacket s.fb c.val).p0 = 0xFF#8 ∧ (columnPacket s.fb c.val).p1 = 0xFF#8 ∧
      (columnPacket s.fb c.val).p2 = 0xFF#8) ∧
    (columnLit s.fb c = false → silentMove s = some { s with seq := { s.seq with
        col := s.seq.col + 1#3,
        iter := if c.val = 7 then s.seq.iter + 1#16 else s.seq.iter,
        point := if c.val = 7 then .loop else .column } }) ∧
    (columnLit s.fb c = true →
      silentMove s = some { s with seq := { s.seq with point := .transmit (columnPacket s.fb c.val) } })

/-- R166, R169 (a), R173: the sequencer's packet goes out as one `BusWrite`; `ok` leads to the delay, `fail` to the
close with `TRANSPORT`; unanswered, nothing happens. The model's choices: WIREPKT is this move (log 9); an empty list of
answers is an unanswered call, at which the state stays (log 2); a call is not in the trace before it is answered (log
20). -/
def Obligations.WirepktTransmits : Prop :=
  ∀ (p : Packet) (s : State), s.seq.busy = true → s.seq.point = .transmit p →
    (∀ rest, s.answers = .ok :: rest → exec (.wirepkt p) s = .next { s with
      answers := rest, trace := s.trace ++ [.call (.busWrite p) .ok], seq := { s.seq with point := .settle } }) ∧
    (∀ rest, s.answers = .fail :: rest → exec (.wirepkt p) s = .next { s with
      answers := rest, trace := s.trace ++ [.call (.busWrite p) .fail],
      seq := { s.seq with point := .close .transport } }) ∧
    (s.answers = [] → exec (.wirepkt p) s = .next s)

/-- Log 9 (the model's choice): a packet the sequencer is not at the point of sending is refused. -/
def Obligations.OtherPacketsAreRefused : Prop :=
  ∀ (p : Packet) (s : State), s.seq.busy = false ∨ s.seq.point ≠ .transmit p →
    exec (.wirepkt p) s = .refused .packetNotOffered

/-- R174, every answer `ok`: the request's step emits the first event, each further step one more, the block being busy
and nothing answered until the last; then the status `OK`, what is left of the answers, `FB` and everything else as
before. One event a step is R6 (3)'s; that the request's own step is the `BusOpen`'s is the model's choice (log 3). -/
def Obligations.DrawAnsweredOk : Prop :=
  ∀ (n : BitVec 16) (s : State), s.seq.busy = false → (∀ rest, s.inputs ≠ .reset :: rest) →
    drawCalls s.cfg s.fb n.toNat ≤ s.answers.length →
    (∀ a ∈ s.answers.take (drawCalls s.cfg s.fb n.toNat), a = .ok) →
    ∃ t : State, exec (.draw n) s = .next t ∧
      (∀ m, m + 1 < (drawEvents s.cfg s.fb n.toNat).length → ∃ u : State, run m t = .next u ∧ u.seq.busy = true ∧
        u.trace = s.trace ++ (drawEvents s.cfg s.fb n.toNat).take (m + 1) ∧ u.responses = s.responses) ∧
      ∃ q : Seq, q.busy = false ∧
        run ((drawEvents s.cfg s.fb n.toNat).length - 1) t = .next { s with
          seq := q, busOpen := false,
          trace := s.trace ++ drawEvents s.cfg s.fb n.toNat,
          answers := s.answers.drop (drawCalls s.cfg s.fb n.toNat),
          responses := s.responses ++ [⟨.ok, .none⟩] }

/-- R174, R169, a first `fail` at call `j`: the prefix up to and including it, then `BusClose` (after a failed open only
when the parameter says so), one event a step, and with the last one the status `TRANSPORT`; no retry, `FB` as before.
One event a step is R6 (3)'s; that the request's own step is the `BusOpen`'s is the model's choice (log 3). -/
def Obligations.DrawStopsAtFirstFail : Prop :=
  ∀ (n : BitVec 16) (s : State) (j : Nat) (c : Call), s.seq.busy = false → (∀ rest, s.inputs ≠ .reset :: rest) →
    s.busOpen = false → callAt j (drawEvents s.cfg s.fb n.toNat) = some c →
    s.answers[j]? = some .fail → (∀ a ∈ s.answers.take j, a = .ok) →
    ∃ es : List Event,
      es = eventsBeforeCall j (drawEvents s.cfg s.fb n.toNat) ++ [.call c .fail] ++
        (if j = 0 ∧ s.cfg.closeAfterFailedOpen = false then [] else [.busClose]) ∧
      ∃ t : State, exec (.draw n) s = .next t ∧ ∃ q : Seq, q.busy = false ∧
        run (es.length - 1) t = .next { s with
          seq := q,
          trace := s.trace ++ es,
          answers := s.answers.drop (j + 1),
          responses := s.responses ++ [⟨.transport, .none⟩] }

/-- R173, U12 (an empty list of answers is a transport that never answers: log 2, the model's choice): where the transport
never answers call `j` the DRAW never ends: the events before the call are emitted, one a step, and then the block is busy
at that call with no response, and every further step leaves the state as it is. One event a step is R6 (3)'s; that the
request's own step is the `BusOpen`'s, and that the unanswered call is not in the trace, are the model's choices (logs 3
and 20). -/
def Obligations.DrawWaitsForTheTransport : Prop :=
  ∀ (n : BitVec 16) (s : State) (c : Call), s.seq.busy = false → (∀ rest, s.inputs ≠ .reset :: rest) →
    callAt s.answers.length (drawEvents s.cfg s.fb n.toNat) = some c → (∀ a ∈ s.answers, a = .ok) →
    ∃ t u : State, exec (.draw n) s = .next t ∧
      run ((eventsBeforeCall s.answers.length (drawEvents s.cfg s.fb n.toNat)).length - 1) t = .next u ∧
      outstanding u = some c ∧ step u = .next u ∧
      ∃ q : Seq, q.busy = true ∧
        u = { s with
          seq := q, busOpen := if s.answers = [] then s.busOpen else true,
          trace := s.trace ++ eventsBeforeCall s.answers.length (drawEvents s.cfg s.fb n.toNat),
          answers := [] }

/-- Logs 2, 3 and 20 (the model's choices): a DRAW that waits for the transport and is answered later goes on, step by
step, through exactly the states it would have gone through had the answers been there at once; `u.trace.length -
s.trace.length` is the number of events it had emitted. -/
def Obligations.DrawResumesWhereItWaited : Prop :=
  ∀ (n : BitVec 16) (s t u : State) (j : Nat) (later : List Answer),
    s.seq.busy = false → (∀ rest, s.inputs ≠ .reset :: rest) → exec (.draw n) s = .next t →
    (∀ m, m ≤ j → ∃ v : State, run m t = .next v ∧ v.seq.busy = true) → run j t = .next u →
    u.answers = [] → outstanding u ≠ none →
    ∃ t' : State, exec (.draw n) { s with answers := s.answers ++ later } = .next t' ∧
      ∀ m : Nat, run (m + 1) { u with answers := later } = run (m + (u.trace.length - s.trace.length)) t'

/-- R170: with every answer `ok` a DRAW emits exactly `n × T` writes and as many delays, one open, one close, and one
speed setting if enabled, `T` the number of columns with a lit pixel; `exec` and one step for each further event end it,
which is R6 (3) with the model's choice that the request's own step is the `BusOpen`'s (log 3). -/
def Obligations.DrawEventCounts : Prop :=
  ∀ (n : BitVec 16) (s : State), s.seq.busy = false → (∀ rest, s.inputs ≠ .reset :: rest) →
    (∀ a ∈ s.answers, a = .ok) →
    1 + s.cfg.speedEn.toNat + n.toNat * ((List.finRange 8).filter (columnLit s.fb)).length ≤ s.answers.length →
    ∃ (t u : State) (es : List Event), exec (.draw n) s = .next t ∧ run (es.length - 1) t = .next u ∧
      u.seq.busy = false ∧ u.trace = s.trace ++ es ∧
      es.countP (fun e => match e with | .call (.busWrite _) .ok => true | _ => false) =
        n.toNat * ((List.finRange 8).filter (columnLit s.fb)).length ∧
      es.count (.delay s.cfg.tCol) = n.toNat * ((List.finRange 8).filter (columnLit s.fb)).length ∧
      es.count (.call (.busOpen s.cfg.busId s.cfg.deviceId) .ok) = 1 ∧
      es.count .busClose = 1 ∧
      es.count (.call (.busSetSpeed s.cfg.maxSpeedHz) .ok) = s.cfg.speedEn.toNat ∧
      es.length = 2 + s.cfg.speedEn.toNat + 2 * (n.toNat * ((List.finRange 8).filter (columnLit s.fb)).length)

/-- R172: the events and the response of a DRAW are a function of the frame, the count, the configuration and the
transport's answers; nothing else of the state, and no earlier DRAW, plays a part: two such DRAWs go step by step
alongside each other until they end. What a step is here is R6 (3) with the model's choices (logs 3 and 20). -/
def Obligations.DrawIsStateless : Prop :=
  ∀ (n : BitVec 16) (s s' : State), s.seq.busy = false → s'.seq.busy = false →
    (∀ rest, s.inputs ≠ .reset :: rest) → (∀ rest, s'.inputs ≠ .reset :: rest) →
    s'.fb = s.fb → s'.cfg = s.cfg → s'.answers = s.answers →
    ∃ t t' : State, exec (.draw n) s = .next t ∧ exec (.draw n) s' = .next t' ∧
      ∀ (k : Nat), (∀ m, m < k → ∃ v : State, run m t = .next v ∧ v.seq.busy = true) →
        ∃ (u u' : State) (es : List Event) (rs : List Response),
          run k t = .next u ∧ run k t' = .next u' ∧
          u.trace = s.trace ++ es ∧ u'.trace = s'.trace ++ es ∧
          u.responses = s.responses ++ rs ∧ u'.responses = s'.responses ++ rs ∧
          u.seq.busy = u'.seq.busy ∧ u.answers = u'.answers ∧ outstanding u = outstanding u' ∧
          u.inputs = s.inputs ∧ u'.inputs = s'.inputs

/-- 70_reset_and_hazards.md R223: a DRAW of the reset frame sends the eight packets `[0, 0, 0, 1 << c]` in each
iteration, `c` = 0..7 (R160, R167). That it ends `1 + SPEED_EN + 16 n` steps after `exec` is R6 (3) with the model's
choice that the request's own step is the `BusOpen`'s (log 3). -/
def Obligations.DrawOfResetFrame : Prop :=
  ∀ (n : BitVec 16) (s : State), s.seq.busy = false → (∀ rest, s.inputs ≠ .reset :: rest) → s.fb = State.reset.fb →
    1 + s.cfg.speedEn.toNat + n.toNat * 8 ≤ s.answers.length → (∀ a ∈ s.answers, a = .ok) →
    ∃ t u : State, exec (.draw n) s = .next t ∧ run (1 + s.cfg.speedEn.toNat + n.toNat * 16) t = .next u ∧
      u.fb = s.fb ∧ u.seq.busy = false ∧ u.busOpen = false ∧ u.responses = s.responses ++ [⟨.ok, .none⟩] ∧
      u.trace = s.trace ++ ([.call (.busOpen s.cfg.busId s.cfg.deviceId) .ok] ++
        (if s.cfg.speedEn then [.call (.busSetSpeed s.cfg.maxSpeedHz) .ok] else []) ++
        (List.replicate n.toNat ((List.range 8).flatMap fun c =>
          [.call (.busWrite ⟨0x00#8, 0x00#8, 0x00#8, 1#8 <<< c⟩) .ok, .delay s.cfg.tCol])).flatten ++ [.busClose])

/-! Requests, errors and reset. -/

/-- R226, R76, U5: a request executed while a DRAW is in progress is refused (the pure operations too, which is the
model's choice: log 11); a step leaves the requests where they are. -/
def Obligations.RequestsWaitWhileBusy : Prop :=
  ∀ (i : Instr) (s : State), s.seq.busy = true →
    (i.channel = .requestPort → exec i s = .refused .requestInProgress) ∧
    (∀ t, step s = .next t → t.inputs = s.inputs)

/-- R76: an accepted request is answered by exactly one response, presented when it has ended; until then (a DRAW in
progress) none: in the request's own step, and in every later step of a DRAW. -/
def Obligations.OneResponsePerRequest : Prop :=
  (∀ (i : Instr) (s t : State), i.channel = .requestPort → exec i s = .next t →
    (t.seq.busy = false ∧ ∃ r, t.responses = s.responses ++ [r]) ∨ (t.seq.busy = true ∧ t.responses = s.responses)) ∧
  (∀ s t : State, s.seq.busy = true → step s = .next t →
    (t.seq.busy = false ∧ ∃ r, t.responses = s.responses ++ [r]) ∨ (t.seq.busy = true ∧ t.responses = s.responses))

/-- R190: each operation ends only with the statuses the table gives it (a DRAW that ends in a later step too), an error
response carries no result, and the codes are the table's. -/
def Obligations.StatusesOfEachOperation : Prop :=
  (∀ (i : Instr) (s t : State) (r : Response), i.channel = .requestPort → exec i s = .next t →
    t.responses = s.responses ++ [r] → r.status ∈ allowedStatuses i ∧ (r.status ≠ .ok → r.result = .none)) ∧
  (∀ (s t : State) (r : Response), BlockInv s → s.seq.busy = true → step s = .next t →
    t.responses = s.responses ++ [r] →
    r.status ∈ allowedStatuses (.draw s.seq.n) ∧ (r.status ≠ .ok → r.result = .none)) ∧
  Status.code .ok = 0x00#8 ∧ Status.code .indexRange = 0x01#8 ∧ Status.code .shape = 0x02#8 ∧
  Status.code .transport = 0x03#8 ∧ Status.code .illegalRequest = 0x04#8

/-- R197: a request that ends with an error changes no architectural state: the frame buffer is untouched, the block is
idle with the bus closed, and only a DRAW has emitted anything; the same where a DRAW ends with an error in a later
step. -/
def Obligations.ErrorsLeaveTheBlockIdle : Prop :=
  (∀ (i : Instr) (s t : State) (st : Status) (v : Result),
    i.channel = .requestPort → s.busOpen = false → exec i s = .next t →
    t.responses = s.responses ++ [⟨st, v⟩] → st ≠ .ok →
    t.fb = s.fb ∧ t.cfg = s.cfg ∧ t.seq.busy = false ∧ t.busOpen = false ∧ v = .none ∧
      (st ≠ .transport → t.trace = s.trace ∧ t.answers = s.answers ∧ t.seq = s.seq)) ∧
  (∀ (s t : State) (st : Status) (v : Result), BlockInv s → s.seq.busy = true → step s = .next t →
    t.responses = s.responses ++ [⟨st, v⟩] → st ≠ .ok →
    t.fb = s.fb ∧ t.cfg = s.cfg ∧ t.inputs = s.inputs ∧ t.seq.busy = false ∧ t.busOpen = false ∧ v = .none)

/-- R220, U13: the reset input while a request is in progress is refused. That a reset at the head of `inputs` counts as
asserted at once, and does not wait for the DRAW's end, is the model's choice (log 8). -/
def Obligations.ResetDuringRequestIsRefused : Prop :=
  ∀ (s : State) (rest : List HostInput), s.seq.busy = true → s.inputs = .reset :: rest →
    step s = .refused .resetDuringRequest

/-- R22: after reset every one of the 24 row registers is 0xFF; and R221: idle, bus closed, empty trace. -/
def Obligations.ResetStateValues : Prop :=
  (∀ k : Fin 8, State.reset.fb.r.get k = 0xFF#8 ∧ State.reset.fb.g.get k = 0xFF#8 ∧ State.reset.fb.b.get k = 0xFF#8) ∧
  State.reset.seq.busy = false ∧ State.reset.busOpen = false ∧ State.reset.trace = []

/-- R220, R221; that the reset input is an element of `inputs`, and that the inputs after it and the answers to come are
kept, is the model's choice (log 8). The reset input of an idle block gives the state after reset, the configuration
kept. -/
def Obligations.ResetInputGivesResetState : Prop :=
  ∀ (s : State) (rest : List HostInput), s.seq.busy = false → s.inputs = .reset :: rest →
    ∃ t : State, step s = .next t ∧ (∀ k : Fin 8, t.fb.r.get k = 0xFF#8 ∧ t.fb.g.get k = 0xFF#8 ∧ t.fb.b.get k = 0xFF#8) ∧
      t.seq.busy = false ∧ t.busOpen = false ∧ t.cfg = s.cfg ∧ t.trace = [] ∧ t.inputs = rest ∧ t.answers = s.answers

/-! Rules over every step. -/

/-- R27: no step writes the configuration. -/
def Obligations.ConfigurationIsNeverWritten : Prop :=
  ∀ s t : State, step s = .next t → t.cfg = s.cfg

/-- R31, R177: the debug level has no effect on any step: change it before or after, the rest is the same. -/
def Obligations.DebugLevelHasNoEffect : Prop :=
  ∀ (s : State) (d : Nat),
    step { s with cfg := { s.cfg with debug := d } } =
      mapNext (fun t => { t with cfg := { t.cfg with debug := d } }) (step s)

/-- R25, U10: the sequencer registers that are unspecified are unread: states that differ only in them take steps that
differ only in them. -/
def Obligations.UnspecifiedSequencerRegistersAreUnread : Prop :=
  ∀ s s' : State, eraseUnread s = eraseUnread s' →
    mapNext eraseUnread (step s) = mapNext eraseUnread (step s')

/-- R136 with R21: but for DRAW (and the steps of one) no operation reads the frame buffer. -/
def Obligations.OnlyDrawReadsTheFrame : Prop :=
  ∀ (i : Instr) (s t : State) (fb : FrameBuffer), (∀ n, i ≠ .draw n) → exec i s = .next t →
    ∃ t' : State, exec i { s with fb := fb } = .next t' ∧ { t' with fb := t.fb } = t

/-- The state after reset has the invariant. -/
def Obligations.ResetHasInvariant : Prop := BlockInv State.reset

/-- R34, R161, R162, R166 to R169, R171, R209: every step keeps the invariant: the trace obeys the bus discipline
and stands where the sequencer stands, `BUS.open` is 1 exactly while a DRAW is past its open, a busy sequencer is at the
place of an event, and its registers fit that place. The model's choices: that a busy sequencer is at the place of an
event, the silent work before it being done (log 3); that the trace stands before a call that is not yet answered (log
20); that the place is a field of the state (log 21). -/
def Obligations.StepKeepsInvariant : Prop :=
  ∀ s t : State, BlockInv s → step s = .next t → BlockInv t

/-- What the discipline means for the packets (R171, R165): every `BusWrite` in the trace has exactly one bit in its
column byte and lights at least one pixel. -/
def Obligations.EveryWriteIsOneHotAndLit : Prop :=
  ∀ s : State, BlockInv s → ∀ (p : Packet) (a : Answer), .call (.busWrite p) a ∈ s.trace →
    popcount p.p3 = 1 ∧ (∃ c : Fin 8, p.p3 = 1#8 <<< c.val) ∧
    ¬ (p.p0 = 0xFF#8 ∧ p.p1 = 0xFF#8 ∧ p.p2 = 0xFF#8)

/-- What it means for opens and closes (R168, R34): between two requests the bus is closed, and every open answered `ok`
has had its one close (a close after a failed open, if the parameter asks for it, being the only other kind). -/
def Obligations.OpensAndClosesBalance : Prop :=
  ∀ s : State, BlockInv s → s.seq.busy = false →
    s.busOpen = false ∧
    s.trace.count .busClose =
      s.trace.count (.call (.busOpen s.cfg.busId s.cfg.deviceId) .ok) +
        (if s.cfg.closeAfterFailedOpen then s.trace.count (.call (.busOpen s.cfg.busId s.cfg.deviceId) .fail) else 0)

/-- R167, R209: in the trace of every state with the invariant, a `BusWrite` answered `ok` is followed by its delay (or
is the last event, its delay due next), and a delay follows nothing else. -/
def Obligations.DelayFollowsEveryGoodWrite : Prop :=
  ∀ s : State, BlockInv s →
    (∀ (pre post : List Event) (p : Packet) (e : Event),
      s.trace = pre ++ .call (.busWrite p) .ok :: e :: post → e = .delay s.cfg.tCol) ∧
    (∀ (pre post : List Event) (t : Nat) (e : Event),
      s.trace = pre ++ e :: .delay t :: post → ∃ p, e = .call (.busWrite p) .ok) ∧
    (∀ (t : Nat) (post : List Event), s.trace ≠ .delay t :: post)
end

