-- ==== Sys2Proof/Laws/Operands.lean ====
section
/-! SUPPORT. What the operand forms and the pixel-flag conversions compute, bit by bit. -/

namespace Sys2Proof.Laws

open Sys2Proof.Machine

theorem checkIndex_ok {idx : Byte} (h : idx.toNat ≤ 7) : checkIndex idx = .ok idx.toNat := by
  simp [checkIndex]; omega

theorem checkIndex_error {idx : Byte} (h : 7 < idx.toNat) : checkIndex idx = .error .indexRange := by
  simp [checkIndex, h]

@[simp] theorem slice_length (g : Grid) (c : Nat) : (slice g c).length = 8 := by
  simp [slice]

@[simp] theorem slice_getD (g : Grid) (c : Nat) (k : Fin 8) :
    (slice g c).getD k.val false = (g.get k).getLsbD c := by
  simp [slice, List.getD_eq_getElem?_getD, Vector.get]

@[simp] theorem bitsToByte_slice (g : Grid) (c : Nat) : bitsToByte (slice g c) = .ok (packFlags (slice g c)) := by
  simp [bitsToByte]

/-- The mask of a legal index has exactly that bit. -/
theorem getLsbD_bitMask (i k : Nat) (hk : k < 8) : (bitMask i).getLsbD k = decide (k = i) := by
  simp only [bitMask, BitVec.getLsbD_shiftLeft, BitVec.getLsbD_one]
  by_cases h : k = i
  · subst h; simp [hk]
  · rcases Nat.lt_or_ge k i with h' | h'
    · simp [h', h]
    · have : k - i ≠ 0 := by omega
      simp [this, h]

theorem getLsbD_setBit (i k : Nat) (v : Byte) (hk : k < 8) :
    (setBit i v).getLsbD k = (v.getLsbD k || decide (k = i)) := by
  simp [setBit, getLsbD_bitMask i k hk]

theorem getLsbD_clearBit (i k : Nat) (v : Byte) (hk : k < 8) :
    (clearBit i v).getLsbD k = (v.getLsbD k && !decide (k = i)) := by
  rw [clearBit, BitVec.getLsbD_and, BitVec.getLsbD_not, getLsbD_bitMask i k hk]
  simp [hk]

/-- Clearing the bits of a list of positions clears exactly those whose flag is set. -/
theorem getLsbD_clearFold (f : FlagSeq) (ks : List Nat) (b : Byte) (k : Nat) (hk : k < 8) :
    (ks.foldl (fun b i => if f.getD i false then clearBit i b else b) b).getLsbD k =
      (b.getLsbD k && !(decide (k ∈ ks) && f.getD k false)) := by
  induction ks generalizing b with
  | nil => simp
  | cons i ks ih =>
    rw [List.foldl_cons, ih]
    by_cases hf : f.getD i false = true
    · simp only [hf, if_true, getLsbD_clearBit i k b hk, List.mem_cons]
      by_cases hki : k = i
      · subst hki; simp only [hf]; simp
      · simp [hki]
    · simp only [hf]
      by_cases hki : k = i
      · subst hki; simp_all
      · simp [hki]

/-- R103: bit `k` of the colour byte is the complement of flag `k`. -/
theorem getLsbD_packFlags (f : FlagSeq) (k : Nat) (hk : k < 8) :
    (packFlags f).getLsbD k = !f.getD k false := by
  have h1 : (0xFF#8).getLsbD k = true := by
    have : ∀ k : Fin 8, (0xFF#8).getLsbD k.val = true := by decide
    exact this ⟨k, hk⟩
  rw [packFlags, getLsbD_clearFold f _ _ k hk, h1]
  simp [hk]

/-- R104: flag `k` is the complement of bit `k`. -/
theorem byteToBits_get (v : Byte) (k : Fin 8) : (byteToBits v).get k = !v.getLsbD k.val := by
  simp [byteToBits, Vector.get]
  rfl

/-- R164: the encoder never raises inside the sweep, and gives the column's packet. -/
theorem columnEncoding_eq (fb : FrameBuffer) (c : BitVec 3) :
    columnEncoding fb c = .ok (columnPacket fb c.toNat) := by
  have hlt : c.toNat < 8 := c.isLt
  have hc : (c.setWidth 8).toNat = c.toNat := by simp; omega
  have hi : checkIndex (c.setWidth 8) = .ok c.toNat := by rw [checkIndex_ok (by omega), hc]
  simp only [columnEncoding, encodeColumn, bitsToByte_slice, hi]
  simp [columnPacket, bind, Except.bind, setBit]

/-- R150: the stored row is the operand's row of the same or the mirrored number. -/
theorem storedGrid_get (mirror : Bool) (g : Grid) (r : Fin 8) :
    (storedGrid mirror g).get r = g.get (sourceRow mirror r) := by
  simp [storedGrid, Vector.get]
  rfl

end Sys2Proof.Laws
end

