-- ==== Sys2Proof/Laws/State.lean ====
section
/-! SUPPORT. One lemma for each field of each update of the state, so that no proof unfolds a record update. -/

namespace Sys2Proof.Laws

open Sys2Proof.Machine

@[simp] theorem respond_fb (r : Response) (s : State) : (respond r s).fb = s.fb := rfl
@[simp] theorem respond_seq (r : Response) (s : State) : (respond r s).seq = s.seq := rfl
@[simp] theorem respond_busOpen (r : Response) (s : State) : (respond r s).busOpen = s.busOpen := rfl
@[simp] theorem respond_cfg (r : Response) (s : State) : (respond r s).cfg = s.cfg := rfl
@[simp] theorem respond_trace (r : Response) (s : State) : (respond r s).trace = s.trace := rfl
@[simp] theorem respond_responses (r : Response) (s : State) : (respond r s).responses = s.responses ++ [r] := rfl
@[simp] theorem respond_inputs (r : Response) (s : State) : (respond r s).inputs = s.inputs := rfl
@[simp] theorem respond_answers (r : Response) (s : State) : (respond r s).answers = s.answers := rfl

@[simp] theorem finish_fb (v : Result) (s : State) : (finish v s).fb = s.fb := rfl
@[simp] theorem finish_seq (v : Result) (s : State) : (finish v s).seq = s.seq := rfl
@[simp] theorem finish_busOpen (v : Result) (s : State) : (finish v s).busOpen = s.busOpen := rfl
@[simp] theorem finish_cfg (v : Result) (s : State) : (finish v s).cfg = s.cfg := rfl
@[simp] theorem finish_trace (v : Result) (s : State) : (finish v s).trace = s.trace := rfl
@[simp] theorem finish_responses (v : Result) (s : State) : (finish v s).responses = s.responses ++ [⟨.ok, v⟩] := rfl
@[simp] theorem finish_inputs (v : Result) (s : State) : (finish v s).inputs = s.inputs := rfl
@[simp] theorem finish_answers (v : Result) (s : State) : (finish v s).answers = s.answers := rfl

@[simp] theorem raise_fb (st : Status) (s : State) : (raise st s).fb = s.fb := rfl
@[simp] theorem raise_seq (st : Status) (s : State) : (raise st s).seq = s.seq := rfl
@[simp] theorem raise_busOpen (st : Status) (s : State) : (raise st s).busOpen = s.busOpen := rfl
@[simp] theorem raise_cfg (st : Status) (s : State) : (raise st s).cfg = s.cfg := rfl
@[simp] theorem raise_trace (st : Status) (s : State) : (raise st s).trace = s.trace := rfl
@[simp] theorem raise_responses (st : Status) (s : State) : (raise st s).responses = s.responses ++ [⟨st, .none⟩] := rfl
@[simp] theorem raise_inputs (st : Status) (s : State) : (raise st s).inputs = s.inputs := rfl
@[simp] theorem raise_answers (st : Status) (s : State) : (raise st s).answers = s.answers := rfl

@[simp] theorem emit_fb (e : Event) (s : State) : (emit e s).fb = s.fb := rfl
@[simp] theorem emit_seq (e : Event) (s : State) : (emit e s).seq = s.seq := rfl
@[simp] theorem emit_busOpen (e : Event) (s : State) : (emit e s).busOpen = s.busOpen := rfl
@[simp] theorem emit_cfg (e : Event) (s : State) : (emit e s).cfg = s.cfg := rfl
@[simp] theorem emit_trace (e : Event) (s : State) : (emit e s).trace = s.trace ++ [e] := rfl
@[simp] theorem emit_responses (e : Event) (s : State) : (emit e s).responses = s.responses := rfl
@[simp] theorem emit_inputs (e : Event) (s : State) : (emit e s).inputs = s.inputs := rfl
@[simp] theorem emit_answers (e : Event) (s : State) : (emit e s).answers = s.answers := rfl

@[simp] theorem storeFrame_fb (f : FrameBuffer) (s : State) : (storeFrame f s).fb = f := rfl
@[simp] theorem storeFrame_seq (f : FrameBuffer) (s : State) : (storeFrame f s).seq = s.seq := rfl
@[simp] theorem storeFrame_busOpen (f : FrameBuffer) (s : State) : (storeFrame f s).busOpen = s.busOpen := rfl
@[simp] theorem storeFrame_cfg (f : FrameBuffer) (s : State) : (storeFrame f s).cfg = s.cfg := rfl
@[simp] theorem storeFrame_trace (f : FrameBuffer) (s : State) : (storeFrame f s).trace = s.trace := rfl
@[simp] theorem storeFrame_responses (f : FrameBuffer) (s : State) : (storeFrame f s).responses = s.responses := rfl
@[simp] theorem storeFrame_inputs (f : FrameBuffer) (s : State) : (storeFrame f s).inputs = s.inputs := rfl
@[simp] theorem storeFrame_answers (f : FrameBuffer) (s : State) : (storeFrame f s).answers = s.answers := rfl

@[simp] theorem goIdle_fb (s : State) : (goIdle s).fb = s.fb := rfl
@[simp] theorem goIdle_seq (s : State) : (goIdle s).seq = { s.seq with busy := false } := rfl
@[simp] theorem goIdle_busOpen (s : State) : (goIdle s).busOpen = s.busOpen := rfl
@[simp] theorem goIdle_cfg (s : State) : (goIdle s).cfg = s.cfg := rfl
@[simp] theorem goIdle_trace (s : State) : (goIdle s).trace = s.trace := rfl
@[simp] theorem goIdle_responses (s : State) : (goIdle s).responses = s.responses := rfl
@[simp] theorem goIdle_inputs (s : State) : (goIdle s).inputs = s.inputs := rfl
@[simp] theorem goIdle_answers (s : State) : (goIdle s).answers = s.answers := rfl

@[simp] theorem goto_fb (pt : Point) (s : State) : (goto pt s).fb = s.fb := rfl
@[simp] theorem goto_seq (pt : Point) (s : State) : (goto pt s).seq = { s.seq with point := pt } := rfl
@[simp] theorem goto_busOpen (pt : Point) (s : State) : (goto pt s).busOpen = s.busOpen := rfl
@[simp] theorem goto_cfg (pt : Point) (s : State) : (goto pt s).cfg = s.cfg := rfl
@[simp] theorem goto_trace (pt : Point) (s : State) : (goto pt s).trace = s.trace := rfl
@[simp] theorem goto_responses (pt : Point) (s : State) : (goto pt s).responses = s.responses := rfl
@[simp] theorem goto_inputs (pt : Point) (s : State) : (goto pt s).inputs = s.inputs := rfl
@[simp] theorem goto_answers (pt : Point) (s : State) : (goto pt s).answers = s.answers := rfl

@[simp] theorem setBusOpen_fb (v : Bool) (s : State) : (setBusOpen v s).fb = s.fb := rfl
@[simp] theorem setBusOpen_seq (v : Bool) (s : State) : (setBusOpen v s).seq = s.seq := rfl
@[simp] theorem setBusOpen_busOpen (v : Bool) (s : State) : (setBusOpen v s).busOpen = v := rfl
@[simp] theorem setBusOpen_cfg (v : Bool) (s : State) : (setBusOpen v s).cfg = s.cfg := rfl
@[simp] theorem setBusOpen_trace (v : Bool) (s : State) : (setBusOpen v s).trace = s.trace := rfl
@[simp] theorem setBusOpen_responses (v : Bool) (s : State) : (setBusOpen v s).responses = s.responses := rfl
@[simp] theorem setBusOpen_inputs (v : Bool) (s : State) : (setBusOpen v s).inputs = s.inputs := rfl
@[simp] theorem setBusOpen_answers (v : Bool) (s : State) : (setBusOpen v s).answers = s.answers := rfl

@[simp] theorem applyReset_fb (s : State) : (applyReset s).fb = resetFrame := rfl
@[simp] theorem applyReset_seq (s : State) : (applyReset s).seq = resetSeq := rfl
@[simp] theorem applyReset_busOpen (s : State) : (applyReset s).busOpen = false := rfl
@[simp] theorem applyReset_cfg (s : State) : (applyReset s).cfg = s.cfg := rfl
@[simp] theorem applyReset_trace (s : State) : (applyReset s).trace = [] := rfl
@[simp] theorem applyReset_responses (s : State) : (applyReset s).responses = [] := rfl
@[simp] theorem applyReset_inputs (s : State) : (applyReset s).inputs = s.inputs := rfl
@[simp] theorem applyReset_answers (s : State) : (applyReset s).answers = s.answers := rfl

@[simp] theorem beginDraw_fb (n : BitVec 16) (s : State) : (beginDraw n s).fb = s.fb := rfl
@[simp] theorem beginDraw_seq (n : BitVec 16) (s : State) : (beginDraw n s).seq = { s.seq with busy := true, n := n, point := .openBus } := rfl
@[simp] theorem beginDraw_busOpen (n : BitVec 16) (s : State) : (beginDraw n s).busOpen = s.busOpen := rfl
@[simp] theorem beginDraw_cfg (n : BitVec 16) (s : State) : (beginDraw n s).cfg = s.cfg := rfl
@[simp] theorem beginDraw_trace (n : BitVec 16) (s : State) : (beginDraw n s).trace = s.trace := rfl
@[simp] theorem beginDraw_responses (n : BitVec 16) (s : State) : (beginDraw n s).responses = s.responses := rfl
@[simp] theorem beginDraw_inputs (n : BitVec 16) (s : State) : (beginDraw n s).inputs = s.inputs := rfl
@[simp] theorem beginDraw_answers (n : BitVec 16) (s : State) : (beginDraw n s).answers = s.answers := rfl

@[simp] theorem startSweep_fb (s : State) : (startSweep s).fb = s.fb := rfl
@[simp] theorem startSweep_seq (s : State) : (startSweep s).seq = { s.seq with iter := 0#16, point := .loop } := rfl
@[simp] theorem startSweep_busOpen (s : State) : (startSweep s).busOpen = s.busOpen := rfl
@[simp] theorem startSweep_cfg (s : State) : (startSweep s).cfg = s.cfg := rfl
@[simp] theorem startSweep_trace (s : State) : (startSweep s).trace = s.trace := rfl
@[simp] theorem startSweep_responses (s : State) : (startSweep s).responses = s.responses := rfl
@[simp] theorem startSweep_inputs (s : State) : (startSweep s).inputs = s.inputs := rfl
@[simp] theorem startSweep_answers (s : State) : (startSweep s).answers = s.answers := rfl

@[simp] theorem reset_fb : State.reset.fb = resetFrame := rfl
@[simp] theorem reset_seq : State.reset.seq = resetSeq := rfl
@[simp] theorem reset_busOpen : State.reset.busOpen = false := rfl
@[simp] theorem reset_cfg : State.reset.cfg = Config.instantiation := rfl
@[simp] theorem reset_trace : State.reset.trace = [] := rfl
@[simp] theorem reset_responses : State.reset.responses = [] := rfl
@[simp] theorem reset_inputs : State.reset.inputs = [] := rfl
@[simp] theorem reset_answers : State.reset.answers = Config.transportAnswers := rfl

end Sys2Proof.Laws
end

