-- ==== Sys2Proof/Laws/Ops.lean ====
section
/-! SUPPORT. Everything a shared operation can do, said once. -/

namespace Sys2Proof.Laws

open Sys2Proof.Machine

/-- An accepted request answers a next state exactly when nothing is in progress. -/
theorem accept_next {s t : State} {act : State → State} :
    accept s act = .next t ↔ s.seq.busy = false ∧ act s = t := by
  unfold accept
  cases s.seq.busy <;> simp

@[simp] theorem accept_idle {s : State} (h : s.seq.busy = false) (act : State → State) :
    accept s act = .next (act s) := by
  simp [accept, h]

@[simp] theorem accept_busy {s : State} (h : s.seq.busy = true) (act : State → State) :
    accept s act = .refused .requestInProgress := by
  simp [accept, h]

/-- Ending a pure operation presents one response and changes nothing else. -/
theorem conclude_eq (r : Except Status Result) (s : State) :
    conclude r s = respond (match r with | .ok v => ⟨.ok, v⟩ | .error st => ⟨st, .none⟩) s := by
  cases r <;> rfl

/-- Asking the transport: no answer and nothing happens, or the next answer is consumed and recorded beside the call. -/
theorem ask_eq_some {c : Call} {k : Answer → State → State} {s t : State} :
    ask c k s = some t ↔
      ∃ a rest, s.answers = a :: rest ∧ t = k a (emit (.call c a) { s with answers := rest }) := by
  unfold ask
  cases h : s.answers with
  | nil => simp
  | cons a rest => simp [eq_comm]

theorem ask_eq_none {c : Call} {k : Answer → State → State} {s : State} :
    ask c k s = none ↔ s.answers = [] := by
  unfold ask
  cases h : s.answers <;> simp

end Sys2Proof.Laws
end

