-- ==== Sys2Proof/Laws/PerInstr.lean ====
section
/-! SUPPORT. Statements for all instructions, made per instruction. Family `EncodedLength`: the encoding of an
instruction has the length the opcode table gives its row (30_encoding.md R78; R70 for the wire packet). -/

namespace Sys2Proof.Laws

/-- R78, R70: "length_bytes" of each row. -/
def tableLength : Instr → Nat
  | .setbit _ _ => 3
  | .clrbit _ _ => 3
  | .tstbit _ _ => 3
  | .b2byte _ => 4
  | .byte2b _ => 2
  | .enccol _ _ _ _ => 11
  | .decpkt _ => 5
  | .setfrm _ _ _ _ => 26
  | .draw _ => 3
  | .wirepkt _ => 4

def EncodedLength.Statement (i : Instr) : Prop := (encode i).length = tableLength i

theorem EncodedLength.setbit (idx val : Byte) : EncodedLength.Statement (.setbit idx val) := rfl

theorem EncodedLength.clrbit (idx val : Byte) : EncodedLength.Statement (.clrbit idx val) := rfl

theorem EncodedLength.tstbit (idx val : Byte) : EncodedLength.Statement (.tstbit idx val) := rfl

theorem EncodedLength.b2byte (f : FlagSeq) : EncodedLength.Statement (.b2byte f) := rfl

theorem EncodedLength.byte2b (val : Byte) : EncodedLength.Statement (.byte2b val) := rfl

theorem EncodedLength.enccol (r g b : FlagSeq) (col : Byte) : EncodedLength.Statement (.enccol r g b col) := rfl

theorem EncodedLength.decpkt (p : Packet) : EncodedLength.Statement (.decpkt p) := rfl

theorem EncodedLength.setfrm (m : Bool) (r g b : Grid) : EncodedLength.Statement (.setfrm m r g b) := by
  simp [EncodedLength.Statement, encode, tableLength]

theorem EncodedLength.draw (n : BitVec 16) : EncodedLength.Statement (.draw n) := rfl

theorem EncodedLength.wirepkt (p : Packet) : EncodedLength.Statement (.wirepkt p) := rfl

end Sys2Proof.Laws
end

