-- ==== Sys2Proof/Laws/Safety.lean ====
section
/-! SUPPORT. The bus discipline along a trace that grows. -/

namespace Sys2Proof.Laws

open Sys2Proof.Machine

/-- The phase after two traces in a row. -/
theorem busAfter_append {cfg : Cfg} {ph ph' : BusPhase} {a : List Event} (b : List Event)
    (h : busAfter cfg ph a = some ph') : busAfter cfg ph (a ++ b) = busAfter cfg ph' b := by
  induction a generalizing ph with
  | nil => simp only [busAfter, Option.some.injEq] at h; simp [h]
  | cons e es ih =>
    simp only [busAfter, List.cons_append] at h ⊢
    split at h
    · exact ih h
    · cases h

end Sys2Proof.Laws
end

