-- ==== Sys2Proof/Laws/Sequencer.lean ====
section
/-! SUPPORT. Each event and each silent move of the sequencer as an equation, what `eventMove` can do said once, and the
induction over silent moves, packaged once. -/

namespace Sys2Proof.Laws

open Sys2Proof.Machine

/-- Step 3a and 3b with the packet written out: skip, or go on to send it. -/
theorem packColumn_eq (s : State) :
    packColumn s =
      if skipped (columnPacket s.fb s.seq.col.toNat) then nextColumn s
      else goto (.transmit (columnPacket s.fb s.seq.col.toNat)) s := by
  simp [packColumn, columnEncoding_eq]

/-- The next column changes the sequencer's registers only. -/
theorem nextColumn_frame (s : State) : nextColumn s = { s with seq := (nextColumn s).seq } := by
  unfold nextColumn; split <;> rfl

theorem loopTest_frame (s : State) : loopTest s = { s with seq := (loopTest s).seq } := by
  unfold loopTest goto; split <;> rfl

theorem packColumn_frame (s : State) : packColumn s = { s with seq := (packColumn s).seq } := by
  rw [packColumn_eq]; split
  · exact nextColumn_frame s
  · rfl

theorem openBus_ok {s : State} {rest : List Answer} (h : s.answers = .ok :: rest) :
    openBus s = some (
      let t := setBusOpen true (emit (.call (.busOpen s.cfg.busId s.cfg.deviceId) .ok) { s with answers := rest })
      if s.cfg.speedEn then goto .setSpeed t else startSweep t) := by
  simp only [openBus, ask, h]; rfl

theorem openBus_fail {s : State} {rest : List Answer} (h : s.answers = .fail :: rest) :
    openBus s = some (
      let t := emit (.call (.busOpen s.cfg.busId s.cfg.deviceId) .fail) { s with answers := rest }
      if s.cfg.closeAfterFailedOpen then goto .closeUnopened t else raise .transport (goIdle t)) := by
  simp only [openBus, ask, h]; rfl

theorem setSpeed_ok {s : State} {rest : List Answer} (h : s.answers = .ok :: rest) :
    setSpeed s = some (startSweep (emit (.call (.busSetSpeed s.cfg.maxSpeedHz) .ok) { s with answers := rest })) := by
  simp [setSpeed, ask, h]

theorem setSpeed_fail {s : State} {rest : List Answer} (h : s.answers = .fail :: rest) :
    setSpeed s = some (
      goto (.close .transport) (emit (.call (.busSetSpeed s.cfg.maxSpeedHz) .fail) { s with answers := rest })) := by
  simp [setSpeed, ask, h]

theorem transmit_ok {p : Packet} {s : State} {rest : List Answer} (h : s.answers = .ok :: rest) :
    transmit p s = some (goto .settle (emit (.call (.busWrite p) .ok) { s with answers := rest })) := by
  simp [transmit, ask, h]

theorem transmit_fail {p : Packet} {s : State} {rest : List Answer} (h : s.answers = .fail :: rest) :
    transmit p s = some (goto (.close .transport) (emit (.call (.busWrite p) .fail) { s with answers := rest })) := by
  simp [transmit, ask, h]

/-- Everything the event of a place can do: the transport's answer is consumed and recorded beside its call, or the event
without an answer is emitted; then the sequencer's place, `BUS.open` and the response. -/
theorem eventMove_cases {s t : State} (h : eventMove s = some t) :
    ((s.seq.point = .loop ∨ s.seq.point = .column) ∧ t = s) ∨
    (∃ rest, s.seq.point = .openBus ∧ s.answers = .ok :: rest ∧
      t = { s with
        answers := rest, trace := s.trace ++ [.call (.busOpen s.cfg.busId s.cfg.deviceId) .ok], busOpen := true,
        seq := if s.cfg.speedEn then { s.seq with point := .setSpeed } else { s.seq with iter := 0#16, point := .loop } }) ∨
    (∃ rest, s.seq.point = .openBus ∧ s.answers = .fail :: rest ∧ s.cfg.closeAfterFailedOpen = true ∧
      t = { s with
        answers := rest, trace := s.trace ++ [.call (.busOpen s.cfg.busId s.cfg.deviceId) .fail],
        seq := { s.seq with point := .closeUnopened } }) ∨
    (∃ rest, s.seq.point = .openBus ∧ s.answers = .fail :: rest ∧ s.cfg.closeAfterFailedOpen = false ∧
      t = { s with
        answers := rest, trace := s.trace ++ [.call (.busOpen s.cfg.busId s.cfg.deviceId) .fail],
        seq := { s.seq with busy := false }, responses := s.responses ++ [⟨.transport, .none⟩] }) ∨
    (s.seq.point = .closeUnopened ∧
      t = { s with
        trace := s.trace ++ [.busClose], seq := { s.seq with busy := false },
        responses := s.responses ++ [⟨.transport, .none⟩] }) ∨
    (∃ rest, s.seq.point = .setSpeed ∧ s.answers = .ok :: rest ∧
      t = { s with
        answers := rest, trace := s.trace ++ [.call (.busSetSpeed s.cfg.maxSpeedHz) .ok],
        seq := { s.seq with iter := 0#16, point := .loop } }) ∨
    (∃ rest, s.seq.point = .setSpeed ∧ s.answers = .fail :: rest ∧
      t = { s with
        answers := rest, trace := s.trace ++ [.call (.busSetSpeed s.cfg.maxSpeedHz) .fail],
        seq := { s.seq with point := .close .transport } }) ∨
    (∃ p rest, s.seq.point = .transmit p ∧ s.answers = .ok :: rest ∧
      t = { s with
        answers := rest, trace := s.trace ++ [.call (.busWrite p) .ok], seq := { s.seq with point := .settle } }) ∨
    (∃ p rest, s.seq.point = .transmit p ∧ s.answers = .fail :: rest ∧
      t = { s with
        answers := rest, trace := s.trace ++ [.call (.busWrite p) .fail],
        seq := { s.seq with point := .close .transport } }) ∨
    (s.seq.point = .settle ∧
      t = { s with trace := s.trace ++ [.delay s.cfg.tCol], seq := (nextColumn s).seq }) ∨
    (∃ st, s.seq.point = .close st ∧
      t = { s with
        trace := s.trace ++ [.busClose], busOpen := false, seq := { s.seq with busy := false },
        responses := s.responses ++ [⟨st, .none⟩] }) := by
  unfold eventMove at h
  split at h <;> rename_i hp
  · unfold openBus at h
    obtain ⟨a, rest, ha, rfl⟩ := ask_eq_some.1 h
    cases a with
    | ok =>
      refine .inr (.inl ⟨rest, hp, ha, ?_⟩)
      cases hs : s.cfg.speedEn <;> simp [hs, goto, setBusOpen, startSweep, emit]
    | fail =>
      cases hc : s.cfg.closeAfterFailedOpen with
      | true => exact .inr (.inr (.inl ⟨rest, hp, ha, rfl, by simp [hc, goto, emit]⟩))
      | false => exact .inr (.inr (.inr (.inl ⟨rest, hp, ha, rfl, by simp [hc, raise, respond, goIdle, emit]⟩)))
  · cases h; exact .inr (.inr (.inr (.inr (.inl ⟨hp, rfl⟩))))
  · unfold setSpeed at h
    obtain ⟨a, rest, ha, rfl⟩ := ask_eq_some.1 h
    cases a with
    | ok => exact .inr (.inr (.inr (.inr (.inr (.inl ⟨rest, hp, ha, rfl⟩)))))
    | fail => exact .inr (.inr (.inr (.inr (.inr (.inr (.inl ⟨rest, hp, ha, rfl⟩))))))
  · cases h; exact .inl ⟨.inl hp, rfl⟩
  · cases h; exact .inl ⟨.inr hp, rfl⟩
  · rename_i p
    unfold transmit at h
    obtain ⟨a, rest, ha, rfl⟩ := ask_eq_some.1 h
    cases a with
    | ok => exact .inr (.inr (.inr (.inr (.inr (.inr (.inr (.inl ⟨p, rest, hp, ha, rfl⟩)))))))
    | fail => exact .inr (.inr (.inr (.inr (.inr (.inr (.inr (.inr (.inl ⟨p, rest, hp, ha, rfl⟩))))))))
  · cases h
    refine .inr (.inr (.inr (.inr (.inr (.inr (.inr (.inr (.inr (.inl ⟨hp, ?_⟩)))))))))
    by_cases hc : s.seq.col = 7#3 <;> simp [settle, nextColumn, hc, emit]
  · rename_i st
    cases h
    exact .inr (.inr (.inr (.inr (.inr (.inr (.inr (.inr (.inr (.inr ⟨st, hp, rfl⟩)))))))))

/-- Everything a silent move can do: the loop test ends the sweep or enters an iteration; a column is skipped, or the
sequencer goes on to send its packet. -/
theorem silentMove_cases {s t : State} (h : silentMove s = some t) :
    (s.seq.point = .loop ∧ s.seq.iter = s.seq.n ∧ t = goto (.close .ok) s) ∨
    (s.seq.point = .loop ∧ s.seq.iter ≠ s.seq.n ∧ t = { s with seq := { s.seq with col := 0#3, point := .column } }) ∨
    (s.seq.point = .column ∧ skipped (columnPacket s.fb s.seq.col.toNat) = true ∧ t = nextColumn s) ∨
    (s.seq.point = .column ∧ skipped (columnPacket s.fb s.seq.col.toNat) = false ∧
      t = goto (.transmit (columnPacket s.fb s.seq.col.toNat)) s) := by
  unfold silentMove at h
  split at h <;> rename_i hp <;> cases h
  · by_cases hn : s.seq.iter = s.seq.n
    · exact .inl ⟨hp, hn, by simp [loopTest, hn]⟩
    · exact .inr (.inl ⟨hp, hn, by simp [loopTest, hn]⟩)
  · rw [packColumn_eq]
    by_cases hk : skipped (columnPacket s.fb s.seq.col.toNat) = true
    · exact .inr (.inr (.inl ⟨hp, hk, by simp [hk]⟩))
    · simp only [Bool.not_eq_true] at hk
      exact .inr (.inr (.inr ⟨hp, hk, by simp [hk]⟩))

/-- A silent move changes the sequencer's place, column and iteration only. -/
theorem silentMove_frame {s t : State} (h : silentMove s = some t) :
    t = { s with seq := t.seq } ∧ t.seq.busy = s.seq.busy ∧ t.seq.n = s.seq.n := by
  obtain ⟨-, -, rfl⟩ | ⟨-, -, rfl⟩ | ⟨-, -, rfl⟩ | ⟨-, -, rfl⟩ := silentMove_cases h
  · exact ⟨rfl, rfl, rfl⟩
  · exact ⟨rfl, rfl, rfl⟩
  · unfold nextColumn; split <;> exact ⟨rfl, rfl, rfl⟩
  · exact ⟨rfl, rfl, rfl⟩

/-- There is a silent move exactly at the two silent places. -/
theorem silentMove_eq_none {s : State} : silentMove s = none ↔ s.seq.point ≠ .loop ∧ s.seq.point ≠ .column := by
  unfold silentMove; cases hp : s.seq.point <;> simp

/-- What every silent move keeps, seeking keeps. -/
theorem seekFor_induct {P : State → Prop} (hmove : ∀ s t, P s → silentMove s = some t → P t) :
    ∀ (k : Nat) (s : State), P s → P (seekFor k s)
  | 0, _, h => h
  | k + 1, s, h => by
    unfold seekFor
    split
    · exact h
    · rename_i t hm; exact seekFor_induct hmove k t (hmove s t h hm)

theorem seek_induct {P : State → Prop} (hmove : ∀ s t, P s → silentMove s = some t → P t) {s : State} (h : P s) :
    P (seek s) :=
  seekFor_induct hmove _ s h

/-- Seeking changes the sequencer's place, column and iteration only. -/
theorem seek_frame (s : State) :
    seek s = { s with seq := (seek s).seq } ∧ (seek s).seq.busy = s.seq.busy ∧ (seek s).seq.n = s.seq.n := by
  refine seek_induct (P := fun t => t = { s with seq := t.seq } ∧ t.seq.busy = s.seq.busy ∧ t.seq.n = s.seq.n)
    (fun t u ht hm => ?_) ⟨rfl, rfl, rfl⟩
  obtain ⟨h1, h2, h3⟩ := silentMove_frame hm
  rw [h1, ht.1]
  exact ⟨rfl, h2.trans ht.2.1, h3.trans ht.2.2⟩

@[simp] theorem seek_fb (s : State) : (seek s).fb = s.fb := by rw [(seek_frame s).1]
@[simp] theorem seek_busOpen (s : State) : (seek s).busOpen = s.busOpen := by rw [(seek_frame s).1]
@[simp] theorem seek_cfg (s : State) : (seek s).cfg = s.cfg := by rw [(seek_frame s).1]
@[simp] theorem seek_trace (s : State) : (seek s).trace = s.trace := by rw [(seek_frame s).1]
@[simp] theorem seek_responses (s : State) : (seek s).responses = s.responses := by rw [(seek_frame s).1]
@[simp] theorem seek_inputs (s : State) : (seek s).inputs = s.inputs := by rw [(seek_frame s).1]
@[simp] theorem seek_answers (s : State) : (seek s).answers = s.answers := by rw [(seek_frame s).1]
@[simp] theorem seek_busy (s : State) : (seek s).seq.busy = s.seq.busy := (seek_frame s).2.1
@[simp] theorem seek_n (s : State) : (seek s).seq.n = s.seq.n := (seek_frame s).2.2

/-- At the place of an event there is nothing to seek. -/
theorem seek_of_event {s : State} (h : s.seq.point ≠ .loop ∧ s.seq.point ≠ .column) : seek s = s := by
  simp [seek, seekFor, silentMove_eq_none.2 h]

/-- R163: the silent moves that can still follow from a place: at the loop test nine for each iteration to come and one;
at a column, as many less the columns done. -/
def silentLeft (s : State) : Nat :=
  match s.seq.point with
  | .loop => 9 * (s.seq.n.toNat - s.seq.iter.toNat) + 1
  | .column => 9 * (s.seq.n.toNat - s.seq.iter.toNat) - s.seq.col.toNat
  | .openBus => 0
  | .closeUnopened => 0
  | .setSpeed => 0
  | .transmit _ => 0
  | .settle => 0
  | .close _ => 0

/-- The iterations done have not passed the count, and inside an iteration they are short of it. -/
def sweepBounded (s : State) : Prop :=
  s.seq.iter.toNat ≤ s.seq.n.toNat ∧ (s.seq.point = .column → s.seq.iter.toNat < s.seq.n.toNat)

/-- A silent move keeps the bounds and leaves at least one silent move less. -/
theorem silentMove_progress {s t : State} (hb : sweepBounded s) (h : silentMove s = some t) :
    sweepBounded t ∧ silentLeft t + 1 ≤ silentLeft s := by
  obtain ⟨h1, h2⟩ := hb
  obtain ⟨hp, -, rfl⟩ | ⟨hp, hn, rfl⟩ | ⟨hp, -, rfl⟩ | ⟨hp, -, rfl⟩ := silentMove_cases h
  · exact ⟨⟨h1, by simp⟩, by simp [silentLeft, hp]⟩
  · have : s.seq.iter.toNat ≠ s.seq.n.toNat := fun e => hn (BitVec.eq_of_toNat_eq e)
    exact ⟨⟨h1, fun _ => by simp only; omega⟩, by simp [silentLeft, hp]⟩
  · have h2 := h2 hp
    have hc := s.seq.col.isLt
    have hlt := s.seq.n.isLt
    unfold nextColumn
    split
    · rename_i h7
      have hi : (s.seq.iter + 1#16).toNat = s.seq.iter.toNat + 1 := by simp [BitVec.toNat_add]; omega
      refine ⟨⟨?_, by simp⟩, ?_⟩
      · simp only [hi]; omega
      · simp only [silentLeft, hp, hi, h7]; simp; omega
    · rename_i h7
      have hn7 : s.seq.col.toNat ≠ 7 := fun e => h7 (BitVec.eq_of_toNat_eq (by simpa using e))
      have hi : (s.seq.col + 1#3).toNat = s.seq.col.toNat + 1 := by simp [BitVec.toNat_add]; omega
      refine ⟨⟨h1, fun _ => h2⟩, ?_⟩
      simp only [silentLeft, hp, hi]; omega
  · have h2 := h2 hp
    have hc := s.seq.col.isLt
    exact ⟨⟨h1, by simp⟩, by simp [silentLeft, hp]; omega⟩

/-- R6 (3): seeking ends at the place of an event: `seek` makes as many silent moves as can come. -/
theorem seek_lands {s : State} (hb : sweepBounded s) : (seek s).seq.point ≠ .loop ∧ (seek s).seq.point ≠ .column := by
  have key : ∀ (k : Nat) (s : State), sweepBounded s → silentLeft s ≤ k → silentMove (seekFor k s) = none := by
    intro k
    induction k with
    | zero =>
      intro s hb hk
      cases hm : silentMove s with
      | none => simpa [seekFor] using hm
      | some t => have := (silentMove_progress hb hm).2; omega
    | succ k ih =>
      intro s hb hk
      unfold seekFor
      split
      · assumption
      · rename_i t hm
        obtain ⟨ht, hl⟩ := silentMove_progress hb hm
        exact ih t ht (by omega)
  refine silentMove_eq_none.1 (key _ s hb ?_)
  unfold silentLeft; split <;> omega

/-- A move is not made exactly where a call waits for an answer that is not there (R173). -/
theorem sequencerMove_eq_none {s : State} (hb : s.seq.busy = true) :
    sequencerMove s = none ↔ s.answers = [] ∧ (outstanding s).isSome = true := by
  unfold sequencerMove eventMove outstanding
  cases hp : s.seq.point <;> simp [hb, openBus, setSpeed, transmit, ask_eq_none]

/-- A move is the event of the place, then the silent moves to the next. -/
theorem sequencerMove_eq_some {s t : State} :
    sequencerMove s = some t ↔ ∃ u, eventMove s = some u ∧ seek u = t := by
  simp [sequencerMove, Option.map_eq_some_iff]

/-- R6 (3): at its place an event adds exactly itself to the trace. -/
theorem eventMove_trace {s t : State} (hp : s.seq.point ≠ .loop ∧ s.seq.point ≠ .column) (h : eventMove s = some t) :
    ∃ e, t.trace = s.trace ++ [e] := by
  obtain ⟨h | h, rfl⟩ | ⟨_, -, -, rfl⟩ | ⟨_, -, -, -, rfl⟩ | ⟨_, -, -, -, rfl⟩ | ⟨-, rfl⟩ | ⟨_, -, -, rfl⟩ |
    ⟨_, -, -, rfl⟩ | ⟨_, _, -, -, rfl⟩ | ⟨_, _, -, -, rfl⟩ | ⟨-, rfl⟩ | ⟨_, -, rfl⟩ := eventMove_cases h
  · exact absurd h hp.1
  · exact absurd h hp.2
  all_goals exact ⟨_, rfl⟩

theorem advance_wait {s : State} (h : sequencerMove s = none) : advance s = s := by simp [advance, h]

theorem advance_move {s t : State} (h : sequencerMove s = some t) : advance s = t := by simp [advance, h]

/-- No move writes the frame, the configuration or the inputs. -/
theorem sequencerMove_frame {s t : State} (h : sequencerMove s = some t) :
    t.fb = s.fb ∧ t.cfg = s.cfg ∧ t.inputs = s.inputs := by
  obtain ⟨u, hu, rfl⟩ := sequencerMove_eq_some.1 h
  simp only [seek_fb, seek_cfg, seek_inputs]
  obtain ⟨-, rfl⟩ | ⟨_, -, -, rfl⟩ | ⟨_, -, -, -, rfl⟩ | ⟨_, -, -, -, rfl⟩ | ⟨-, rfl⟩ | ⟨_, -, -, rfl⟩ | ⟨_, -, -, rfl⟩ |
    ⟨_, _, -, -, rfl⟩ | ⟨_, _, -, -, rfl⟩ | ⟨-, rfl⟩ | ⟨_, -, rfl⟩ := eventMove_cases hu <;> exact ⟨rfl, rfl, rfl⟩

theorem advance_frame (s : State) : (advance s).fb = s.fb ∧ (advance s).cfg = s.cfg ∧ (advance s).inputs = s.inputs := by
  cases h : sequencerMove s with
  | none => simp [advance_wait h]
  | some t => rw [advance_move h]; exact sequencerMove_frame h

/-- Sending a packet is the whole move of its place: no silent move follows it. -/
theorem sequencerMove_transmit {p : Packet} {s : State} (h : s.seq.point = .transmit p) :
    sequencerMove s = transmit p s := by
  unfold sequencerMove eventMove
  simp only [h]
  cases ha : s.answers with
  | nil => simp [transmit, ask, ha]
  | cons a rest => cases a <;> simp [transmit, ask, ha, seek_of_event]

end Sys2Proof.Laws
end

