-- ==== Sys2Proof/Laws/Step.lean ====
section
/-! SUPPORT. Everything an instruction and a step can do, said once: provers take a next state apart with `exec_next` and
`step_next` and never unfold `exec` or `step`. -/

namespace Sys2Proof.Laws

open Sys2Proof.Machine

/-- Every request is refused while another is in progress. -/
theorem exec_busy {i : Instr} {s : State} (hi : i.channel = .requestPort) (hb : s.seq.busy = true) :
    exec i s = .refused .requestInProgress := by
  cases i <;> first
    | (cases hi; done)
    | simp [exec, execSetbit, execClrbit, execTstbit, execB2byte, execByte2b, execEnccol, execDecpkt, execSetfrm, execDraw, hb]

/-- What an instruction that answers a next state has done: a pure operation presented one response; SETFRM stored a
frame and answered `OK`; DRAW began and made its first event; WIREPKT made the sequencer's event; the last two wait where
the transport does not answer. -/
theorem exec_next {i : Instr} {s t : State} (h : exec i s = .next t) :
    (PureOperation i ∧ s.seq.busy = false ∧ ∃ r : Response, t = respond r s) ∨
    (∃ m r g b, i = .setfrm m r g b ∧ s.seq.busy = false ∧
      t = finish .none (storeFrame ⟨storedGrid m r, storedGrid m g, storedGrid m b⟩ s)) ∨
    (∃ n, i = .draw n ∧ s.seq.busy = false ∧ t = advance (beginDraw n s)) ∨
    (∃ p, i = .wirepkt p ∧ s.seq.busy = true ∧ s.seq.point = .transmit p ∧ t = advance s) := by
  cases i with
  | setfrm m r g b =>
    simp only [exec, execSetfrm, accept_next] at h
    obtain ⟨hb, rfl⟩ := h
    exact .inr (.inl ⟨m, r, g, b, rfl, hb, rfl⟩)
  | draw n =>
    simp only [exec, execDraw, accept_next] at h
    obtain ⟨hb, rfl⟩ := h
    exact .inr (.inr (.inl ⟨n, rfl, hb, rfl⟩))
  | wirepkt p =>
    simp only [exec, execWirepkt] at h
    split at h
    · rename_i hp
      cases h
      exact .inr (.inr (.inr ⟨p, rfl, hp.1, hp.2, by simp [advance, sequencerMove_transmit hp.2]⟩))
    · cases h
  | _ =>
    obtain ⟨hb, rfl⟩ := accept_next.1 h
    exact .inl ⟨trivial, hb, _, conclude_eq _ _⟩

/-- A busy step, no reset input being presented, is the sequencer's next event, or no change where it waits. -/
theorem step_busy {s : State} (hb : s.seq.busy = true) (hr : ∀ rest, s.inputs ≠ .reset :: rest) :
    step s = .next (advance s) := by
  have hstep : step s = continueDraw s := by
    cases hi : s.inputs with
    | nil => simp [step, hb, busyStep, hi]
    | cons a l =>
      cases a with
      | reset => exact absurd hi (hr l)
      | request bs => simp [step, hb, busyStep, hi]
  rw [hstep, continueDraw]
  cases hp : s.seq.point <;> simp [exec, execWirepkt, hb, hp, advance, sequencerMove_transmit]

/-- What a step that answers a next state has done. -/
theorem step_next {s t : State} (h : step s = .next t) :
    (s.seq.busy = false ∧ s.inputs = [] ∧ t = s) ∨
    (∃ rest, s.seq.busy = false ∧ s.inputs = .reset :: rest ∧ t = applyReset { s with inputs := rest }) ∨
    (∃ bs rest e, s.seq.busy = false ∧ s.inputs = .request bs :: rest ∧ decodeRequest bs = .error e ∧
      t = raise .illegalRequest { s with inputs := rest }) ∨
    (∃ bs rest i, s.seq.busy = false ∧ s.inputs = .request bs :: rest ∧ decodeRequest bs = .ok i ∧
      exec i { s with inputs := rest } = .next t) ∨
    (s.seq.busy = true ∧ t = advance s) := by
  cases hb : s.seq.busy with
  | true =>
    by_cases hr : ∃ rest, s.inputs = .reset :: rest
    · obtain ⟨rest, hr⟩ := hr
      simp [step, hb, busyStep, hr] at h
    · rw [step_busy hb (fun rest e => hr ⟨rest, e⟩)] at h
      cases h
      exact .inr (.inr (.inr (.inr ⟨rfl, rfl⟩)))
  | false =>
    simp only [step, hb, idleStep, Bool.false_eq_true, if_false] at h
    split at h
    · rename_i hi; cases h; exact .inl ⟨rfl, hi, rfl⟩
    · rename_i rest hi; cases h; exact .inr (.inl ⟨rest, rfl, hi, rfl⟩)
    · rename_i bs rest hi
      unfold serveRequest at h
      split at h
      · rename_i i hd; exact .inr (.inr (.inr (.inl ⟨bs, rest, i, rfl, hi, hd, h⟩)))
      · rename_i e hd; cases h; exact .inr (.inr (.inl ⟨bs, rest, e, rfl, hi, hd, rfl⟩))

/-! Runs of steps. -/

@[simp] theorem run_zero (s : State) : run 0 s = .next s := rfl

theorem run_succ_next {k : Nat} {s t : State} (h : step s = .next t) : run (k + 1) s = run k t := by
  have h' : core.step s = .next t := h
  simp only [run, Host.Core.run, h']
  rfl

/-- A run of `j + k` steps is `j` steps and then `k`. -/
theorem run_add {j k : Nat} {s t : State} (h : run j s = .next t) : run (j + k) s = run k t := by
  induction j generalizing s with
  | zero => cases h; simp
  | succ j ih =>
    rw [show j + 1 + k = (j + k) + 1 by omega]
    cases hs : step s with
    | next u => rw [run_succ_next hs] at h ⊢; exact ih h
    | fault f => cases f
    | refused r =>
      have h' : core.step s = .refused r := hs
      simp [run, Host.Core.run, h'] at h

end Sys2Proof.Laws
end

