-- ==== Sys2Proof/Tests/Slice0.lean ====
section
/-! SUPPORT. Tests. Expected values are spec/95_test_vectors.md's (the vector is named in each docstring) or written out
from the encodings of spec/30_encoding.md. Then, for every obligation with hypotheses, a state and operands that meet
them. -/

namespace Sys2Proof.Tests

open Sys2Proof.Machine Sys2Proof.Laws

/-! WellFormed: an ill-formed term for each check. -/

/-- R80: 17 elements are too many. -/
theorem test_wf_b2byte_long : (Instr.b2byte (List.replicate 17 true)).wellFormed = false := by decide

/-- R80, each of ENCCOL's three sequences. -/
theorem test_wf_enccol_red : (Instr.enccol (List.replicate 17 true) [] [] 0#8).wellFormed = false := by decide
theorem test_wf_enccol_green : (Instr.enccol [] (List.replicate 17 true) [] 0#8).wellFormed = false := by decide
theorem test_wf_enccol_blue : (Instr.enccol [] [] (List.replicate 17 true) 0#8).wellFormed = false := by decide

/-- R73: a column-select byte with no bit set, and one with two. -/
theorem test_wf_wirepkt_zero : (Instr.wirepkt ⟨0#8, 0#8, 0#8, 0x00#8⟩).wellFormed = false := by decide
theorem test_wf_wirepkt_two : (Instr.wirepkt ⟨0#8, 0#8, 0#8, 0x18#8⟩).wellFormed = false := by decide

/-- R72: the highest valid column-select byte, and R80: the longest sequence. -/
theorem test_wf_good : (Instr.wirepkt ⟨0#8, 0#8, 0#8, 0x80#8⟩).wellFormed = true ∧
    (Instr.b2byte (List.replicate 16 true)).wellFormed = true := by decide

/-! Decoding, from words written out bit by bit (R78 to R84, R70). -/

/-- R79: `00000001 00000111 01111111`. -/
theorem test_decode_setbit : decodeRequest [0b00000001#8, 0b00000111#8, 0b01111111#8] = .ok (.setbit 7#8 0x7F#8) := by decide
theorem test_decode_clrbit : decodeRequest [0b00000010#8, 0b11001000#8, 0b00000001#8] = .ok (.clrbit 200#8 1#8) := by decide
theorem test_decode_tstbit : decodeRequest [0b00000011#8, 0b00000010#8, 0b00001000#8] = .ok (.tstbit 2#8 8#8) := by decide
/-- R80, V32b: the bits at or above `len` are ignored. -/
theorem test_decode_b2byte : decodeRequest [0b00000100#8, 0b00001000#8, 0b00000001#8, 0b11111111#8] =
    .ok (.b2byte [true, false, false, false, false, false, false, false]) := by decide
/-- R80: element 8 is bit 0 of `f_hi`. -/
theorem test_decode_b2byte_hi : decodeRequest [0b00000100#8, 0b00001001#8, 0b00000000#8, 0b00000001#8] =
    .ok (.b2byte [false, false, false, false, false, false, false, false, true]) := by decide
theorem test_decode_byte2b : decodeRequest [0b00000101#8, 0b10100101#8] = .ok (.byte2b 0xA5#8) := by decide
/-- R82, V33. -/
theorem test_decode_enccol : decodeRequest
    [0x10#8, 0x08#8, 0x03#8, 0x00#8, 0x08#8, 0x0C#8, 0x00#8, 0x08#8, 0xF0#8, 0x00#8, 0x07#8] =
    .ok (.enccol [true, true, false, false, false, false, false, false]
      [false, false, true, true, false, false, false, false]
      [false, false, false, false, true, true, true, true] 7#8) := by decide
theorem test_decode_decpkt : decodeRequest [0x11#8, 0xFC#8, 0x0F#8, 0xF3#8, 0x80#8] =
    .ok (.decpkt ⟨0xFC#8, 0x0F#8, 0xF3#8, 0x80#8⟩) := by decide
/-- R83: mirror, then red, green, blue rows 0 to 7. -/
theorem test_decode_setfrm : decodeRequest
    [0x20#8, 1#8, 10#8, 11#8, 12#8, 13#8, 14#8, 15#8, 16#8, 17#8, 20#8, 21#8, 22#8, 23#8, 24#8, 25#8, 26#8, 27#8,
      30#8, 31#8, 32#8, 33#8, 34#8, 35#8, 36#8, 37#8] =
    .ok (.setfrm true #v[10#8, 11#8, 12#8, 13#8, 14#8, 15#8, 16#8, 17#8]
      #v[20#8, 21#8, 22#8, 23#8, 24#8, 25#8, 26#8, 27#8] #v[30#8, 31#8, 32#8, 33#8, 34#8, 35#8, 36#8, 37#8]) := by decide
/-- R84: low byte first. -/
theorem test_decode_draw : decodeRequest [0b00110000#8, 0b00000011#8, 0b00000001#8] = .ok (.draw 0x0103#16) := by decide
theorem test_decode_wirepkt : decodeBus [0xFE#8, 0xFF#8, 0xFF#8, 0x08#8] = .ok (.wirepkt ⟨0xFE#8, 0xFF#8, 0xFF#8, 0x08#8⟩) := by
  decide
/-- V64, V65, V68, V69, V70, V71: each illegal for its own reason. -/
theorem test_decode_illegal :
    decodeRequest [] = .error .empty ∧ decodeRequest [0x00#8] = .error (.reservedOpcode 0x00#8) ∧
    decodeRequest [0x01#8, 0x03#8] = .error .wrongLength ∧
    decodeRequest [0x01#8, 0x03#8, 0x00#8, 0x00#8] = .error .wrongLength ∧
    decodeRequest [0x04#8, 0x11#8, 0x00#8, 0x00#8] = .error (.flagSeqTooLong 0x11#8) ∧
    decodeRequest (0x20#8 :: 0x02#8 :: List.replicate 24 0x00#8) = .error (.mirrorNotFlag 0x02#8) := by decide
/-- The host's view: an opcode word without operand bits, and the bus channel's row. -/
theorem test_table_words : decodeTableWord 8 0x30 = some (.draw 0#16) ∧ decodeTableWord 24 0x7F0701 = some (.setbit 7#8 0x7F#8) ∧
    decodeTableWord 32 0x08FFFFFE = some (.wirepkt ⟨0xFE#8, 0xFF#8, 0xFF#8, 0x08#8⟩) ∧ decodeTableWord 24 0x06 = none := by decide

/-! Meanings: one step each on a small state. -/

/-- A configuration for tests. -/
def cfg : Cfg := ⟨3, 4, false, 500, 0, 2, false⟩

/-- The same with the speed setting enabled. -/
def fastCfg : Cfg := { cfg with speedEn := true }

/-- The same with a close asked for after a failed open. -/
def closingCfg : Cfg := { cfg with closeAfterFailedOpen := true }

def dark : Grid := Vector.replicate 8 0#8

/-- V57: `FB.R` = 08 ×8, the rest 00: column 3 lit in red. -/
def stripe : FrameBuffer := ⟨Vector.replicate 8 0x08#8, dark, dark⟩

/-- V57's packet. -/
def stripePacket : Packet := ⟨0x00#8, 0xFF#8, 0xFF#8, 0x08#8⟩

/-- An idle state with a given frame and given answers to come. -/
def idle (fb : FrameBuffer) (answers : List Answer) : State where
  fb := fb
  seq := resetSeq
  busOpen := false
  cfg := cfg
  trace := []
  responses := []
  inputs := []
  answers := answers

/-- A state at the point of sending V57's packet, in the only iteration. -/
def sending (answers : List Answer) : State :=
  { idle stripe answers with
    seq := ⟨true, 1#16, 0#16, 3#3, .transmit stripePacket⟩, busOpen := true,
    trace := [.call (.busOpen 3 4) .ok] }

/-- A state at the head of the inner loop, where the sequencer only passes. -/
def atColumn (c : BitVec 3) : State :=
  { sending [] with seq := ⟨true, 1#16, 0#16, c, .column⟩ }

/-- A state after a failed open whose close is due. -/
def unopened : State :=
  { idle stripe [] with
    cfg := closingCfg, seq := ⟨true, 1#16, 0#16, 0#3, .closeUnopened⟩, trace := [.call (.busOpen 3 4) .fail] }

/-- A state at the speed setting. -/
def speeding (answers : List Answer) : State :=
  { sending answers with cfg := fastCfg, seq := ⟨true, 1#16, 0#16, 0#3, .setSpeed⟩ }

/-- A state at the delay after V57's packet. -/
def settling : State :=
  { sending [] with
    seq := ⟨true, 1#16, 0#16, 3#3, .settle⟩, trace := [.call (.busOpen 3 4) .ok, .call (.busWrite stripePacket) .ok] }

/-- A state at the close after a failed write. -/
def failing : State :=
  { sending [] with
    seq := ⟨true, 1#16, 0#16, 3#3, .close .transport⟩,
    trace := [.call (.busOpen 3 4) .ok, .call (.busWrite stripePacket) .fail] }

/-- The bytes of the response a next state ends with, if there is one. -/
def lastBytes (o : Host.Outcome State Fault Refusal) : Option (List Byte) :=
  match o with
  | .next s => (presentedBytes s).getLast?
  | .fault _ => none
  | .refused _ => none

/-- A function of the next state, if there is one. -/
def ofNext {α : Type} (f : State → α) (o : Host.Outcome State Fault Refusal) : Option α :=
  match o with
  | .next s => some (f s)
  | .fault _ => none
  | .refused _ => none

/-- An idle state with one request presented. -/
def present (bytes : List Byte) : State := { idle stripe [] with inputs := [.request bytes] }

/-- V4, V7. -/
theorem test_setbit : lastBytes (exec (.setbit 7#8 0x7F#8) (idle stripe [])) = some [0x00#8, 0xFF#8] ∧
    lastBytes (exec (.setbit 8#8 0x00#8) (idle stripe [])) = some [0x01#8] := by decide
/-- V10, V14. -/
theorem test_clrbit : lastBytes (exec (.clrbit 3#8 0xFF#8) (idle stripe [])) = some [0x00#8, 0xF7#8] ∧
    lastBytes (exec (.clrbit 8#8 0xFF#8) (idle stripe [])) = some [0x01#8] := by decide
/-- V19, V21. -/
theorem test_tstbit : lastBytes (exec (.tstbit 7#8 0x80#8) (idle stripe [])) = some [0x00#8, 0x01#8] ∧
    lastBytes (exec (.tstbit 8#8 0xFF#8) (idle stripe [])) = some [0x01#8] := by decide
/-- V26, V28 through the port. -/
theorem test_b2byte : lastBytes (step (present [0x04#8, 0x08#8, 0x8D#8, 0x00#8])) = some [0x00#8, 0x72#8] ∧
    lastBytes (step (present [0x04#8, 0x05#8, 0x15#8, 0x00#8])) = some [0x02#8] := by decide
/-- V32f. -/
theorem test_byte2b : lastBytes (step (present [0x05#8, 0xA5#8])) = some [0x00#8, 0x5A#8] := by decide
/-- V33 (the channel swap), V40 (both faults: `SHAPE`). -/
theorem test_enccol :
    lastBytes (step (present [0x10#8, 0x08#8, 0x03#8, 0x00#8, 0x08#8, 0x0C#8, 0x00#8, 0x08#8, 0xF0#8, 0x00#8, 0x07#8])) =
      some [0x00#8, 0xFC#8, 0x0F#8, 0xF3#8, 0x80#8] ∧
    lastBytes (step (present [0x10#8, 0x08#8, 0x00#8, 0x00#8, 0x08#8, 0x00#8, 0x00#8, 0x09#8, 0x00#8, 0x00#8, 0x09#8])) =
      some [0x02#8] := by decide
/-- V42, in full. -/
theorem test_decpkt : lastBytes (step (present [0x11#8, 0xFC#8, 0x0F#8, 0xF3#8, 0x80#8])) = some
    [0x00#8,
      0xAA#8, 0x6A#8, 0xAA#8, 0x6A#8, 0xAA#8, 0x2A#8, 0xAA#8, 0x2A#8, 0xAA#8, 0x2A#8, 0xAA#8, 0x2A#8, 0xAA#8, 0x2A#8, 0xAA#8, 0x2A#8,
      0xAA#8, 0x2A#8, 0xAA#8, 0x2A#8, 0xAA#8, 0x6A#8, 0xAA#8, 0x6A#8, 0xAA#8, 0x2A#8, 0xAA#8, 0x2A#8, 0xAA#8, 0x2A#8, 0xAA#8, 0x2A#8,
      0xAA#8, 0x2A#8, 0xAA#8, 0x2A#8, 0xAA#8, 0x2A#8, 0xAA#8, 0x2A#8, 0xAA#8, 0x6A#8, 0xAA#8, 0x6A#8, 0xAA#8, 0x6A#8, 0xAA#8, 0x6A#8] := by
  decide
/-- V44: two bits set in the column byte, all `Unknown`, status `OK`. -/
theorem test_decpkt_no_column : lastBytes (step (present [0x11#8, 0x12#8, 0x34#8, 0x56#8, 0x18#8])) =
    some (0x00#8 :: List.replicate 48 0xAA#8) := by decide
/-- V48: the row order is reversed, the bits inside a row are not. -/
theorem test_setfrm_mirror : ofNext (fun t => (t.fb.r, t.fb.g)) (exec (.setfrm true
    #v[0x01#8, 0x02#8, 0x04#8, 0x08#8, 0x10#8, 0x20#8, 0x40#8, 0x80#8] dark dark) (idle stripe [])) =
    some (#v[0x80#8, 0x40#8, 0x20#8, 0x10#8, 0x08#8, 0x04#8, 0x02#8, 0x01#8], dark) := by decide
/-- V47. -/
theorem test_setfrm_plain : ofNext (fun t => (t.fb.r, t.fb.g)) (exec (.setfrm false
    #v[0x01#8, 0x02#8, 0x04#8, 0x08#8, 0x10#8, 0x20#8, 0x40#8, 0x80#8] dark dark) (idle stripe [])) =
    some (#v[0x01#8, 0x02#8, 0x04#8, 0x08#8, 0x10#8, 0x20#8, 0x40#8, 0x80#8], dark) := by decide
/-- V57, one event a step: the `BusOpen`; the write; the delay, after which columns 4 to 7 are skipped and the sweep ends. -/
theorem test_draw : ofNext (fun t => (t.trace, t.responses, t.seq.point)) (exec (.draw 1#16) (idle stripe [.ok, .ok])) =
      some ([.call (.busOpen 3 4) .ok], [], .transmit stripePacket) ∧
    ofNext (fun t => (t.trace, t.seq.point)) (step (sending [.ok])) =
      some ([.call (.busOpen 3 4) .ok, .call (.busWrite stripePacket) .ok], .settle) ∧
    ofNext (fun t => (t.trace, t.seq.point)) (step settling) =
      some ([.call (.busOpen 3 4) .ok, .call (.busWrite stripePacket) .ok, .delay 2], .close .ok) := by decide
/-- V61, the speed setting's failure; V59's close after a failed write; R169 (b) with `CLOSE_AFTER_FAILED_OPEN`, where the
`BusClose` is a step of its own. -/
theorem test_draw_fail : ofNext (fun t => (t.trace, t.responses, t.seq.point)) (step (speeding [.fail])) =
      some ([.call (.busOpen 3 4) .ok, .call (.busSetSpeed 500) .fail], [], .close .transport) ∧
    ofNext (fun t => (t.trace, t.responses, t.busOpen, t.seq.busy)) (step failing) =
      some ([.call (.busOpen 3 4) .ok, .call (.busWrite stripePacket) .fail, .busClose], [⟨.transport, .none⟩], false, false) ∧
    ofNext (fun t => (t.trace, t.responses, t.seq.point)) (exec (.draw 1#16) { idle stripe [.fail] with cfg := closingCfg }) =
      some ([.call (.busOpen 3 4) .fail], [], .closeUnopened) ∧
    ofNext (fun t => (t.trace, t.responses)) (step unopened) =
      some ([.call (.busOpen 3 4) .fail, .busClose], [⟨.transport, .none⟩]) := by decide
/-- V59's write: answered `fail`, the close is next. -/
theorem test_wirepkt : ofNext (fun t => (t.trace, t.seq.point)) (exec (.wirepkt stripePacket) (sending [.fail])) =
    some ([.call (.busOpen 3 4) .ok, .call (.busWrite stripePacket) .fail], .close .transport) := by decide
/-- V71 through the port. -/
theorem test_illegal_request : lastBytes (step (present (0x20#8 :: 0x02#8 :: List.replicate 24 0x00#8))) = some [0x04#8] := by
  decide
/-- The first step after reset with each channel's word placed answers a next state (log 10). -/
theorem test_first_step : (ofNext (fun _ => ()) (step (State.reset.withFetchWord 24 0x000130))).isSome = true ∧
    (ofNext (fun _ => ()) (step (State.reset.withFetchWord 32 0x08FFFFFE))).isSome = true ∧
    lastBytes (step (State.reset.withFetchWord 16 0x7F05)) = some [0x00#8, 0x80#8] := by decide

/-! Witnesses: for every obligation with hypotheses, a state and operands that meet them all, each clause at a boundary
of its range. -/

/-- States in the middle of a DRAW have the invariant. -/
theorem sending_inv (answers : List Answer) : BlockInv (sending answers) :=
  ⟨rfl, rfl, fun _ => ⟨(by decide : 0 < 1), (by decide : stripePacket = columnPacket stripe 3), by decide⟩⟩
theorem settling_inv : BlockInv settling := ⟨by decide, by decide, fun _ => (by decide : 0 < 1)⟩
theorem failing_inv : BlockInv failing := ⟨by decide, by decide, fun _ => .inr rfl⟩
theorem unopened_inv : BlockInv unopened := ⟨by decide, by decide, fun _ => rfl⟩

theorem witness_DecodeEncodeRoundTrip : (Instr.enccol (List.replicate 16 true) [] [true] 255#8).wellFormed = true := by
  decide
theorem witness_DecodedRequestsAreWellFormed : decodeRequest [0x05#8, 0x00#8] = .ok (.byte2b 0#8) ∧
    (∀ f, Instr.byte2b 0#8 ≠ .b2byte f) ∧ (∀ r g b c, Instr.byte2b 0#8 ≠ .enccol r g b c) :=
  ⟨by decide, (fun _ h => by cases h), fun _ _ _ _ h => by cases h⟩
theorem witness_FlagSeqOperandReading : 16 < (17#8).toNat ∧ (16#8).toNat ≤ 16 ∧ 15 < (16#8).toNat := by decide
theorem witness_OperandsInFormatOrder : decodeRequest [0x04#8, 0x01#8, 0x01#8, 0x00#8] = .ok (.b2byte [true]) ∧
    decodeRequest [0x04#8, 0x00#8, 0x00#8, 0x00#8] = .ok (.b2byte []) := by decide
theorem witness_IllegalRequestsAreAnswered :
    (present [0x04#8, 0x11#8, 0x00#8, 0x00#8]).seq.busy = false ∧
    (present [0x04#8, 0x11#8, 0x00#8, 0x00#8]).inputs = .request [0x04#8, 0x11#8, 0x00#8, 0x00#8] :: [] ∧
    ¬ LegalRequest [0x04#8, 0x11#8, 0x00#8, 0x00#8] ∧ LegalRequest [0x04#8, 0x10#8, 0x00#8, 0x00#8] := by
  unfold LegalRequest; decide
theorem witness_StepRunsDecodedRequest : (present [0x05#8, 0x00#8]).seq.busy = false ∧
    (present [0x05#8, 0x00#8]).inputs = .request [0x05#8, 0x00#8] :: [] ∧
    decodeRequest [0x05#8, 0x00#8] = .ok (.byte2b 0#8) := by decide
theorem witness_StepContinuesDraw_transmit : (sending []).seq.busy = true ∧ (∀ rest, (sending []).inputs ≠ .reset :: rest) ∧
    (sending []).seq.point = .transmit stripePacket := by
  refine ⟨rfl, fun _ h => ?_, rfl⟩; cases h
theorem witness_StepContinuesDraw_other : settling.seq.busy = true ∧ (∀ rest, settling.inputs ≠ .reset :: rest) ∧
    (∀ p, settling.seq.point ≠ .transmit p) ∧ (sequencerMove settling).isSome = true ∧
    sequencerMove { settling with seq := { settling.seq with point := .openBus } } = none := by
  refine ⟨rfl, fun _ h => ?_, fun _ h => ?_, by decide, by decide⟩ <;> cases h
/-- For each clause of EveryDrawStepEmitsOneEvent: an idle state without and with an answer; a busy one with an event to
emit without an answer, one with an answer, one that waits; and a reset. -/
theorem witness_EveryDrawStepEmitsOneEvent :
    ((idle stripe []).seq.busy = false ∧ (idle stripe []).answers = [] ∧ (idle stripe [.fail]).answers = .fail :: []) ∧
    (BlockInv settling ∧ settling.seq.busy = true ∧ (∀ rest, settling.inputs ≠ .reset :: rest) ∧ outstanding settling = none) ∧
    (BlockInv (sending [.ok]) ∧ (sending [.ok]).answers ≠ []) ∧
    (BlockInv (sending []) ∧ (sending []).answers = [] ∧ outstanding (sending []) ≠ none) ∧
    ∃ t, step { idle stripe [] with inputs := [.reset] } = .next t :=
  ⟨by decide, ⟨settling_inv, rfl, (fun _ h => by cases h), by decide⟩, ⟨sending_inv [.ok], by decide⟩,
    ⟨sending_inv [], by decide, by decide⟩, _, rfl⟩
theorem witness_StepWithNothingPresented : (idle stripe []).seq.busy = false ∧ (idle stripe []).inputs = [] := by decide
/-- For SetbitResult, ClrbitResult, TstbitResult, Byte2bResult, DecpktResult and SetfrmResult, whose one hypothesis is
that nothing is in progress; 7 and 8 are the boundary of the index. -/
theorem witness_idle : (idle stripe []).seq.busy = false ∧ (7#8).toNat ≤ 7 ∧ ¬ (8#8).toNat ≤ 7 := ⟨rfl, by decide, by decide⟩
/-- Each of the seven constructors. -/
theorem witness_PureOperationsDependOnOperandsAlone : (idle stripe []).seq.busy = false ∧
    PureOperation (.setbit 7#8 0#8) ∧ PureOperation (.clrbit 8#8 0#8) ∧ PureOperation (.tstbit 0#8 0xFF#8) ∧
    PureOperation (.b2byte (List.replicate 8 true)) ∧ PureOperation (.byte2b 0xFF#8) ∧
    PureOperation (.enccol [] [] [] 8#8) ∧ PureOperation (.decpkt ⟨0#8, 0#8, 0#8, 0x80#8⟩) :=
  ⟨rfl, trivial, trivial, trivial, trivial, trivial, trivial, trivial⟩
theorem witness_SingleBitLaws : 7 < 8 ∧ 0 < 8 ∧ 0 ≠ 7 := by decide
theorem witness_B2byteResult : (idle stripe []).seq.busy = false ∧ (List.replicate 16 true).length ≤ 16 ∧
    (List.replicate 8 true).length = 8 ∧ (List.replicate 7 true).length ≠ 8 ∧ (List.replicate 9 true).length ≠ 8 := by
  decide
theorem witness_EnccolResult : (idle stripe []).seq.busy = false ∧
    ((List.replicate 8 true).length = 8 ∧ (7#8).toNat ≤ 7) ∧ 7 < (8#8).toNat ∧ (List.replicate 9 true).length ≠ 8 ∧
    (List.replicate 16 true).length ≤ 16 := by decide
theorem witness_EncodedColumnByteIsOneHot :
    encodeColumn (List.replicate 8 false) (List.replicate 8 false) (List.replicate 8 true) 7#8 =
      .ok ⟨0xFF#8, 0x00#8, 0xFF#8, 0x80#8⟩ := by decide
theorem witness_CodecRoundTrip : activeCol (0x80#8) = some (7 : Fin 8).val ∧ activeCol (0x00#8) = none ∧
    activeCol (0x18#8) = none ∧ ∃ rg gg bg, decodePacket ⟨0xFC#8, 0x0F#8, 0xF3#8, 0x80#8⟩ = .grids rg gg bg :=
  ⟨by decide, by decide, by decide, _, _, _, rfl⟩
theorem witness_SetfrmResult_rows : (7 : Fin 8).val = (if true then 7 - (0 : Fin 8).val else (0 : Fin 8).val) ∧
    (7 : Fin 8).val = (if false then 7 - (7 : Fin 8).val else (7 : Fin 8).val) := by decide
theorem witness_MirrorReversesColourBits : (idle stripe []).seq.busy = false ∧
    ∃ t, exec (.setfrm true dark dark dark) (idle stripe []) = .next t := ⟨rfl, _, rfl⟩
theorem witness_OnlySetfrmWritesTheFrame : (∀ m r g b, Instr.draw 1#16 ≠ .setfrm m r g b) ∧
    (∃ t, exec (.draw 1#16) (idle stripe [.ok, .ok]) = .next t) ∧ settling.seq.busy = true ∧
    ∃ t, step settling = .next t := ⟨(fun _ _ _ _ h => by cases h), ⟨_, rfl⟩, rfl, _, rfl⟩
theorem witness_ColumnPacketBits : (7 : Fin 8).val = (7#3).toNat := by decide
theorem witness_UnlitColumnsAreSkipped : (atColumn 7#3).seq.busy = true ∧ (atColumn 7#3).seq.point = .column ∧
    (7 : Fin 8).val = (atColumn 7#3).seq.col.toNat ∧ columnLit (atColumn 7#3).fb 7 = false ∧
    (3 : Fin 8).val = (atColumn 3#3).seq.col.toNat ∧ columnLit (atColumn 3#3).fb 3 = true := by decide
theorem witness_WirepktTransmits : (sending []).seq.busy = true ∧ (sending []).seq.point = .transmit stripePacket ∧
    (sending [.ok]).answers = .ok :: [] ∧ (sending [.fail]).answers = .fail :: [] ∧ (sending []).answers = [] := by decide
theorem witness_OtherPacketsAreRefused : (idle stripe []).seq.busy = false ∧ (atColumn 0#3).seq.point ≠ .transmit stripePacket := by
  decide
theorem witness_DrawAnsweredOk : (idle stripe [.ok, .ok]).seq.busy = false ∧
    (∀ rest, (idle stripe [.ok, .ok]).inputs ≠ .reset :: rest) ∧
    drawCalls cfg stripe (1#16).toNat ≤ (idle stripe [.ok, .ok]).answers.length ∧
    (∀ a ∈ (idle stripe [.ok, .ok]).answers.take (drawCalls cfg stripe (1#16).toNat), a = .ok) ∧
    2 + 1 < (drawEvents cfg stripe (1#16).toNat).length := by
  refine ⟨rfl, fun _ h => ?_, by decide, by decide, by decide⟩; cases h
theorem witness_DrawStopsAtFirstFail_open : (idle stripe [.fail]).seq.busy = false ∧ (idle stripe [.fail]).busOpen = false ∧
    (∀ rest, (idle stripe [.fail]).inputs ≠ .reset :: rest) ∧
    callAt 0 (drawEvents cfg stripe (1#16).toNat) = some (.busOpen 3 4) ∧ (idle stripe [.fail]).answers[0]? = some .fail ∧
    (∀ a ∈ (idle stripe [.fail]).answers.take 0, a = .ok) ∧ cfg.closeAfterFailedOpen = false ∧
    callAt 0 (drawEvents closingCfg stripe (1#16).toNat) = some (.busOpen 3 4) ∧ closingCfg.closeAfterFailedOpen = true := by
  refine ⟨rfl, rfl, fun _ h => ?_, by decide, by decide, by decide, by decide, by decide, by decide⟩; cases h
/-- The speed setting fails. -/
theorem witness_DrawStopsAtFirstFail_speed :
    callAt 1 (drawEvents fastCfg stripe (1#16).toNat) = some (.busSetSpeed 500) ∧
    ({ idle stripe [.ok, .fail] with cfg := fastCfg } : State).seq.busy = false ∧
    ({ idle stripe [.ok, .fail] with cfg := fastCfg } : State).busOpen = false ∧
    (∀ rest, ({ idle stripe [.ok, .fail] with cfg := fastCfg } : State).inputs ≠ .reset :: rest) ∧
    ({ idle stripe [.ok, .fail] with cfg := fastCfg } : State).answers[1]? = some .fail ∧
    (∀ a ∈ ({ idle stripe [.ok, .fail] with cfg := fastCfg } : State).answers.take 1, a = .ok) := by
  refine ⟨by decide, rfl, rfl, fun _ h => ?_, by decide, by decide⟩; cases h
theorem witness_DrawStopsAtFirstFail_write : callAt 1 (drawEvents cfg stripe (1#16).toNat) = some (.busWrite stripePacket) ∧
    (idle stripe [.ok, .fail]).answers[1]? = some .fail ∧ (∀ a ∈ (idle stripe [.ok, .fail]).answers.take 1, a = .ok) := by
  decide
theorem witness_DrawWaitsForTheTransport : (idle stripe [.ok]).seq.busy = false ∧
    (∀ rest, (idle stripe [.ok]).inputs ≠ .reset :: rest) ∧
    callAt (idle stripe [.ok]).answers.length (drawEvents cfg stripe (1#16).toNat) = some (.busWrite stripePacket) ∧
    callAt (idle stripe []).answers.length (drawEvents cfg stripe (1#16).toNat) = some (.busOpen 3 4) ∧
    (∀ a ∈ (idle stripe [.ok]).answers, a = .ok) := by
  refine ⟨rfl, fun _ h => ?_, by decide, by decide, by decide⟩; cases h
theorem witness_DrawResumesWhereItWaited : (idle stripe [.ok]).seq.busy = false ∧
    (∀ rest, (idle stripe [.ok]).inputs ≠ .reset :: rest) ∧
    ∃ t u, exec (.draw 1#16) (idle stripe [.ok]) = .next t ∧
      (∀ m, m ≤ 0 → ∃ v : State, run m t = .next v ∧ v.seq.busy = true) ∧ run 0 t = .next u ∧
      u.answers = [] ∧ outstanding u ≠ none := by
  refine ⟨rfl, fun _ h => ?_, _, _, rfl, fun m hm => ?_, rfl, by decide, by decide⟩
  · cases h
  · obtain rfl : m = 0 := by omega
    exact ⟨_, rfl, by decide⟩
theorem witness_DrawEventCounts : (idle stripe [.ok, .ok]).seq.busy = false ∧
    (∀ rest, (idle stripe [.ok, .ok]).inputs ≠ .reset :: rest) ∧ (∀ a ∈ (idle stripe [.ok, .ok]).answers, a = .ok) ∧
    1 + cfg.speedEn.toNat + (1#16).toNat * ((List.finRange 8).filter (columnLit stripe)).length ≤
      (idle stripe [.ok, .ok]).answers.length := by
  refine ⟨rfl, fun _ h => ?_, by decide, by decide⟩; cases h
/-- An idle state like `idle stripe [.ok]` but for a response already given. -/
def answered : State := { idle stripe [.ok] with responses := [⟨.shape, .none⟩] }
theorem witness_DrawIsStateless : (idle stripe [.ok]).seq.busy = false ∧ answered.seq.busy = false ∧
    (∀ rest, (idle stripe [.ok]).inputs ≠ .reset :: rest) ∧ (∀ rest, answered.inputs ≠ .reset :: rest) ∧
    answered.fb = (idle stripe [.ok]).fb ∧ answered.cfg = (idle stripe [.ok]).cfg ∧
    answered.answers = (idle stripe [.ok]).answers ∧
    ∃ t, exec (.draw 1#16) (idle stripe [.ok]) = .next t ∧ ∀ m, m < 1 → ∃ v : State, run m t = .next v ∧ v.seq.busy = true := by
  refine ⟨rfl, rfl, fun _ h => ?_, fun _ h => ?_, rfl, rfl, rfl, _, rfl, fun m hm => ?_⟩
  · cases h
  · cases h
  · obtain rfl : m = 0 := by omega
    exact ⟨_, rfl, by decide⟩
theorem witness_DrawOfResetFrame : (idle resetFrame (List.replicate 9 .ok)).seq.busy = false ∧
    (∀ rest, (idle resetFrame (List.replicate 9 .ok)).inputs ≠ .reset :: rest) ∧
    (idle resetFrame (List.replicate 9 .ok)).fb = State.reset.fb ∧
    1 + cfg.speedEn.toNat + (1#16).toNat * 8 ≤ (idle resetFrame (List.replicate 9 .ok)).answers.length ∧
    (∀ a ∈ (idle resetFrame (List.replicate 9 .ok)).answers, a = .ok) := by
  refine ⟨rfl, fun _ h => ?_, by decide, by decide, by decide⟩; cases h
theorem witness_RequestsWaitWhileBusy : (sending []).seq.busy = true ∧ (Instr.draw 0#16).channel = .requestPort ∧
    ∃ t, step (sending []) = .next t := ⟨rfl, rfl, _, rfl⟩
theorem witness_OneResponsePerRequest : (Instr.draw 1#16).channel = .requestPort ∧
    (∃ t, exec (.draw 1#16) (idle stripe [.fail]) = .next t ∧ t.seq.busy = false) ∧
    (∃ t, exec (.draw 1#16) (idle stripe [.ok]) = .next t ∧ t.seq.busy = true) ∧
    (settling.seq.busy = true ∧ ∃ t, step settling = .next t ∧ t.seq.busy = true) ∧
    failing.seq.busy = true ∧ ∃ t, step failing = .next t ∧ t.seq.busy = false :=
  ⟨rfl, ⟨_, rfl, by decide⟩, ⟨_, rfl, by decide⟩, ⟨rfl, _, rfl, by decide⟩, rfl, _, rfl, by decide⟩
theorem witness_StatusesOfEachOperation : ((Instr.setbit 8#8 0#8).channel = .requestPort ∧
    ∃ t, exec (.setbit 8#8 0#8) (idle stripe []) = .next t ∧
      t.responses = (idle stripe []).responses ++ [⟨.indexRange, .none⟩]) ∧
    BlockInv failing ∧ failing.seq.busy = true ∧ ∃ t, step failing = .next t ∧
      t.responses = failing.responses ++ [⟨.transport, .none⟩] :=
  ⟨⟨rfl, _, rfl, by decide⟩, failing_inv, rfl, _, rfl, by decide⟩
theorem witness_ErrorsLeaveTheBlockIdle : ((idle stripe []).busOpen = false ∧ Status.indexRange ≠ .ok ∧
    Status.indexRange ≠ .transport ∧ ∃ t, exec (.draw 1#16) (idle stripe [.fail]) = .next t ∧
      t.responses = (idle stripe [.fail]).responses ++ [⟨.transport, .none⟩]) ∧
    BlockInv unopened ∧ unopened.seq.busy = true ∧ Status.transport ≠ .ok ∧ ∃ t, step unopened = .next t ∧
      t.responses = unopened.responses ++ [⟨.transport, .none⟩] :=
  ⟨⟨rfl, by decide, by decide, _, rfl, by decide⟩, unopened_inv, rfl, by decide, _, rfl, by decide⟩
theorem witness_ResetDuringRequestIsRefused : ({ sending [] with inputs := [.reset] } : State).seq.busy = true ∧
    ({ sending [] with inputs := [.reset] } : State).inputs = .reset :: [] := by decide
theorem witness_ResetInputGivesResetState : ({ idle stripe [] with inputs := [.reset] } : State).seq.busy = false ∧
    ({ idle stripe [] with inputs := [.reset] } : State).inputs = .reset :: [] := by decide
theorem witness_ConfigurationIsNeverWritten : ∃ t, step { idle stripe [] with inputs := [.reset] } = .next t := ⟨_, rfl⟩
theorem witness_UnspecifiedSequencerRegistersAreUnread :
    eraseUnread { idle stripe [] with seq := ⟨false, 9#16, 8#16, 7#3, .settle⟩ } = eraseUnread (idle stripe []) := by decide
theorem witness_OnlyDrawReadsTheFrame : (∀ n, Instr.byte2b 0#8 ≠ .draw n) ∧
    ∃ t, exec (.byte2b 0#8) (idle stripe []) = .next t := ⟨(fun _ h => by cases h), _, rfl⟩

theorem witness_StepKeepsInvariant : BlockInv (sending [.ok]) ∧ ∃ t, step (sending [.ok]) = .next t := ⟨sending_inv [.ok], _, rfl⟩

/-- An idle state whose trace is V57's. -/
def swept : State :=
  { idle stripe [] with trace := [.call (.busOpen 3 4) .ok, .call (.busWrite stripePacket) .ok, .delay 2, .busClose] }
theorem swept_inv : BlockInv swept := ⟨by decide, by decide, fun h => by cases h⟩
theorem witness_EveryWriteIsOneHotAndLit : BlockInv swept ∧ .call (.busWrite stripePacket) .ok ∈ swept.trace :=
  ⟨swept_inv, by decide⟩
theorem witness_OpensAndClosesBalance : BlockInv swept ∧ swept.seq.busy = false := ⟨swept_inv, rfl⟩
theorem witness_DelayFollowsEveryGoodWrite : BlockInv swept ∧
    swept.trace = [.call (.busOpen 3 4) .ok] ++ .call (.busWrite stripePacket) .ok :: .delay 2 :: [.busClose] :=
  ⟨swept_inv, by decide⟩

end Sys2Proof.Tests
end

/-! The sequencer's events, and a DRAW as a run of steps (00_scope.md R6; 43_sequencer.md R160, R173). -/

namespace Sys2Proof.Proofs

open Sys2Proof.Machine Sys2Proof.Laws

/-! The instructions that move the sequencer, and a step of a busy block. -/

theorem exec_draw_idle {n : BitVec 16} {s : State} (hb : s.seq.busy = false) :
    exec (.draw n) s = .next (advance (beginDraw n s)) :=
  accept_idle hb fun s => advance (beginDraw n s)

theorem exec_wirepkt_offered {p : Packet} {s : State} (hb : s.seq.busy = true) (hp : s.seq.point = .transmit p) :
    exec (.wirepkt p) s = .next (advance s) := by
  simp [exec, execWirepkt, hb, hp, advance, sequencerMove_transmit hp]

theorem step_of_move {s t : State} (hb : s.seq.busy = true) (hr : ∀ rest, s.inputs ≠ .reset :: rest)
    (h : sequencerMove s = some t) : step s = .next t := by
  rw [step_busy hb hr, advance_move h]

theorem step_of_wait {s : State} (hb : s.seq.busy = true) (hr : ∀ rest, s.inputs ≠ .reset :: rest)
    (h : sequencerMove s = none) : step s = .next s := by
  rw [step_busy hb hr, advance_wait h]

/-- Settles O9: `step_busy`, with the packet's meaning at the place of a packet. -/
theorem stepContinuesDraw : Obligations.StepContinuesDraw := by
  intro s hb hr
  refine ⟨fun p hp => ?_, fun _ => ⟨fun t ht => step_of_move hb hr ht, step_of_wait hb hr⟩⟩
  rw [step_busy hb hr, exec_wirepkt_offered hb hp]

/-! The sequencer's registers fit its place after every move. -/

theorem seqConsistent_event {s : State} (h : seqConsistent s) : s.seq.point ≠ .loop ∧ s.seq.point ≠ .column := by
  constructor <;> intro hp <;> simp [seqConsistent, hp] at h

/-- While the sequencer seeks, it is at a silent place, or its registers fit the place it has reached. -/
def seeking (s : State) : Prop :=
  sweepBounded s ∧ (s.seq.point = .loop ∨ s.seq.point = .column ∨ seqConsistent s)

theorem silentMove_seeking {s t : State} (hs : seeking s) (h : silentMove s = some t) : seeking t := by
  obtain ⟨hb, -⟩ := hs
  refine ⟨(silentMove_progress hb h).1, ?_⟩
  obtain ⟨-, hn, rfl⟩ | ⟨-, -, rfl⟩ | ⟨-, -, rfl⟩ | ⟨hp, hk, rfl⟩ := silentMove_cases h
  · exact .inr (.inr (.inl ⟨rfl, hn⟩))
  · exact .inr (.inl rfl)
  · unfold nextColumn
    split
    · exact .inl rfl
    · exact .inr (.inl rfl)
  · exact .inr (.inr ⟨hb.2 hp, rfl, hk⟩)

/-- R163, R164: from inside the sweep's bounds, seeking ends at the place of an event, with the registers to fit. -/
theorem seek_seqConsistent {s : State} (hb : sweepBounded s) (hp : s.seq.point = .loop ∨ s.seq.point = .column) :
    seqConsistent (seek s) := by
  obtain ⟨hl, hc⟩ := seek_lands hb
  obtain ⟨-, h | h | h⟩ : seeking (seek s) :=
    seek_induct (fun _ _ => silentMove_seeking) ⟨hb, hp.imp_right .inl⟩
  · exact absurd h hl
  · exact absurd h hc
  · exact h

theorem nextColumn_sweepBounded {s : State} (h : s.seq.iter.toNat < s.seq.n.toNat) :
    sweepBounded (nextColumn s) ∧ ((nextColumn s).seq.point = .loop ∨ (nextColumn s).seq.point = .column) := by
  unfold nextColumn
  split
  · have := s.seq.n.isLt
    have hi : (s.seq.iter + 1#16).toNat = s.seq.iter.toNat + 1 := by simp [BitVec.toNat_add]; omega
    exact ⟨⟨by simp only [hi]; omega, by simp⟩, .inl rfl⟩
  · exact ⟨⟨h.le, fun _ => h⟩, .inr rfl⟩

/-- A move keeps the sequencer's registers fitting its place. -/
theorem sequencerMove_seqConsistent {s t : State} (hs : seqConsistent s) (h : sequencerMove s = some t) :
    seqConsistent t := by
  obtain ⟨u, hu, rfl⟩ := sequencerMove_eq_some.1 h
  have stays (hc : seqConsistent u) : seqConsistent (seek u) := by rwa [seek_of_event (seqConsistent_event hc)]
  obtain ⟨hp | hp, -⟩ | ⟨_, -, -, rfl⟩ | ⟨_, -, -, hc, rfl⟩ | ⟨_, hp, -, -, rfl⟩ | ⟨hp, rfl⟩ | ⟨_, -, -, rfl⟩ |
    ⟨_, -, -, rfl⟩ | ⟨p, _, hp, -, rfl⟩ | ⟨_, _, -, -, rfl⟩ | ⟨hp, rfl⟩ | ⟨st, hp, rfl⟩ := eventMove_cases hu
  · exact absurd hp (seqConsistent_event hs).1
  · exact absurd hp (seqConsistent_event hs).2
  · by_cases he : s.cfg.speedEn = true
    · rw [if_pos he] at stays ⊢
      exact stays he
    · rw [if_neg he]
      exact seek_seqConsistent ⟨Nat.zero_le _, nofun⟩ (.inl rfl)
  · exact stays hc
  · exact stays (by simp [seqConsistent, hp])
  · exact stays (by simpa [seqConsistent, hp] using hs)
  · exact seek_seqConsistent ⟨Nat.zero_le _, nofun⟩ (.inl rfl)
  · exact stays (.inr rfl)
  · simp only [seqConsistent, hp] at hs
    exact stays hs.1
  · exact stays (.inr rfl)
  · simp only [seqConsistent, hp] at hs
    obtain ⟨hb, hq⟩ := nextColumn_sweepBounded hs
    exact seek_seqConsistent hb hq
  · exact stays (by simpa [seqConsistent, hp] using hs)

/-! The trace of a move. -/

/-- R6 (3): at the place of an event a move adds exactly one event. -/
theorem sequencerMove_trace {s t : State} (hs : seqConsistent s) (h : sequencerMove s = some t) :
    ∃ e, t.trace = s.trace ++ [e] := by
  obtain ⟨u, hu, rfl⟩ := sequencerMove_eq_some.1 h
  simpa using eventMove_trace (seqConsistent_event hs) hu

/-- From any state whatever, the sequencer going on adds at most one event. -/
theorem advance_trace (s : State) : (advance s).trace = s.trace ∨ ∃ e, (advance s).trace = s.trace ++ [e] := by
  cases h : sequencerMove s with
  | none => exact .inl (by rw [advance_wait h])
  | some t =>
    obtain ⟨u, hu, rfl⟩ := sequencerMove_eq_some.1 h
    rw [advance_move h, seek_trace]
    by_cases hp : s.seq.point = .loop ∨ s.seq.point = .column
    · have hs : eventMove s = some s := by obtain hp | hp := hp <;> simp [eventMove, hp]
      obtain rfl : s = u := Option.some.inj (hs.symm.trans hu)
      exact .inl rfl
    · exact .inr (eventMove_trace (not_or.1 hp) hu)

theorem exec_trace {i : Instr} {s t : State} (h : exec i s = .next t) :
    t.trace = s.trace ∨ ∃ e, t.trace = s.trace ++ [e] := by
  obtain ⟨-, -, r, rfl⟩ | ⟨_, _, _, _, -, -, rfl⟩ | ⟨n, -, -, rfl⟩ | ⟨_, -, -, -, rfl⟩ := exec_next h
  · exact .inl rfl
  · exact .inl rfl
  · exact advance_trace (beginDraw n s)
  · exact advance_trace s

theorem step_trace {s t : State} (h : step s = .next t) :
    t.trace = s.trace ∨ (∃ e, t.trace = s.trace ++ [e]) ∨ ((∃ rest, s.inputs = .reset :: rest) ∧ t.trace = []) := by
  obtain ⟨-, -, rfl⟩ | ⟨rest, -, hi, rfl⟩ | ⟨_, _, _, -, -, -, rfl⟩ | ⟨_, _, _, -, -, -, he⟩ | ⟨-, rfl⟩ := step_next h
  · exact .inl rfl
  · exact .inr (.inr ⟨⟨rest, hi⟩, rfl⟩)
  · exact .inl rfl
  · exact (exec_trace he).imp_right .inl
  · exact (advance_trace s).imp_right .inl

/-- R161: at step 1 an answered move is the `BusOpen` with its answer. -/
theorem advance_openBus {s : State} {a : Answer} {rest : List Answer} (hp : s.seq.point = .openBus)
    (ha : s.answers = a :: rest) :
    (advance s).trace = s.trace ++ [.call (.busOpen s.cfg.busId s.cfg.deviceId) a] ∧ (advance s).answers = rest := by
  obtain ⟨u, hu, ht⟩ : ∃ u, openBus s = some u ∧
      u.trace = s.trace ++ [.call (.busOpen s.cfg.busId s.cfg.deviceId) a] ∧ u.answers = rest := by
    cases a with
    | ok => exact ⟨_, openBus_ok ha, by dsimp only; split <;> exact ⟨rfl, rfl⟩⟩
    | fail => exact ⟨_, openBus_fail ha, by dsimp only; split <;> exact ⟨rfl, rfl⟩⟩
  have hm : sequencerMove s = some (seek u) := sequencerMove_eq_some.2 ⟨u, by simp [eventMove, hp, hu], rfl⟩
  simpa [advance_move hm] using ht

theorem beginDraw_waits {n : BitVec 16} {s : State} (ha : s.answers = []) :
    sequencerMove (beginDraw n s) = none :=
  (sequencerMove_eq_none rfl).2 ⟨ha, rfl⟩

/-- Settles O54: the request's step by `advance_openBus`, a later one by `sequencerMove_trace` at a place that fits, any
step by `step_trace`. -/
theorem everyDrawStepEmitsOneEvent : Obligations.EveryDrawStepEmitsOneEvent := by
  refine ⟨fun n s hb => ⟨_, exec_draw_idle hb, fun ha => ?_, fun a rest ha => ?_⟩, fun s hinv hb hr => ⟨fun hmove => ?_,
    fun ha ho => ?_⟩, fun s t => step_trace⟩
  · rw [advance_wait (beginDraw_waits ha)]
    exact ⟨rfl, rfl, rfl⟩
  · exact advance_openBus (s := beginDraw n s) rfl ha
  · obtain ⟨-, -, hc⟩ := hinv
    cases hm : sequencerMove s with
    | none =>
      obtain ⟨ha, ho⟩ := (sequencerMove_eq_none hb).1 hm
      simp [ha, Option.isSome_iff_ne_none.1 ho] at hmove
    | some t =>
      obtain ⟨e, he⟩ := sequencerMove_trace (hc hb) hm
      exact ⟨t, e, step_of_move hb hr hm, he⟩
  · exact step_of_wait hb hr ((sequencerMove_eq_none hb).2 ⟨ha, Option.isSome_iff_ne_none.2 ho⟩)

/-! Later answers: what the sequencer has done does not depend on the answers it has not yet been given. -/

/-- The state with further answers behind those the transport will give. -/
def withLater (later : List Answer) (s : State) : State := { s with answers := s.answers ++ later }

/-- A silent move reads and writes nothing but the frame and the sequencer's registers. -/
theorem silentMove_congr {s s' : State} (hfb : s'.fb = s.fb) (hseq : s'.seq = s.seq) :
    silentMove s' = (silentMove s).map fun t => { s' with seq := t.seq } := by
  obtain ⟨fb, seq, _, _, _, _, _, _⟩ := s
  obtain ⟨fb', seq', _, _, _, _, _, _⟩ := s'
  obtain rfl : fb' = fb := hfb
  obtain rfl : seq' = seq := hseq
  unfold silentMove
  cases seq'.point with
  | loop => simp only [loopTest]; split <;> rfl
  | column =>
    simp only [packColumn_eq]; split
    · simp only [nextColumn]; split <;> rfl
    · rfl
  | _ => rfl

theorem seekFor_congr (k : Nat) {s s' : State} (hfb : s'.fb = s.fb) (hseq : s'.seq = s.seq) :
    seekFor k s' = { s' with seq := (seekFor k s).seq } := by
  induction k generalizing s s' with
  | zero => simp [seekFor, ← hseq]
  | succ k ih =>
    simp only [seekFor, silentMove_congr hfb hseq]
    cases hm : silentMove s with
    | none => simp [← hseq]
    | some t =>
      have ht : t.fb = s.fb := by rw [(silentMove_frame hm).1]
      exact ih (hfb.trans ht.symm) rfl

/-- Seeking reads and writes nothing but the frame and the sequencer's registers. -/
theorem seek_congr {s s' : State} (hfb : s'.fb = s.fb) (hseq : s'.seq = s.seq) :
    seek s' = { s' with seq := (seek s).seq } := by
  rw [seek, hseq]
  exact seekFor_congr _ hfb hseq

theorem seek_withLater (later : List Answer) (s : State) : seek (withLater later s) = withLater later (seek s) :=
  calc seek (withLater later s)
    _ = { withLater later s with seq := (seek s).seq } := seek_congr rfl rfl
    _ = withLater later { s with seq := (seek s).seq } := rfl
    _ = withLater later (seek s) := congrArg (withLater later) (seek_frame s).1.symm

theorem ask_withLater {later : List Answer} {c : Call} {k : Answer → State → State} {s t : State}
    (hk : ∀ a s, k a (withLater later s) = withLater later (k a s)) (h : ask c k s = some t) :
    ask c k (withLater later s) = some (withLater later t) := by
  obtain ⟨a, rest, ha, rfl⟩ := ask_eq_some.1 h
  exact ask_eq_some.2 ⟨a, rest ++ later, by simp [withLater, ha], (hk _ _).symm⟩

/-- An event that is made is made alike where more answers stand behind. -/
theorem eventMove_withLater {later : List Answer} {s t : State} (h : eventMove s = some t) :
    eventMove (withLater later s) = some (withLater later t) := by
  have hp : (withLater later s).seq.point = s.seq.point := rfl
  unfold eventMove at h ⊢
  rw [hp]
  cases hq : s.seq.point
  all_goals simp only [hq] at h ⊢
  case openBus =>
    refine ask_withLater (fun a s => ?_) h
    cases a
    · cases hs : s.cfg.speedEn <;> simp [hs, withLater, goto, setBusOpen, startSweep]
    · cases hs : s.cfg.closeAfterFailedOpen <;> simp [hs, withLater, goto, raise, respond, goIdle]
  case setSpeed => exact ask_withLater (fun a _ => by cases a <;> rfl) h
  case transmit p => exact ask_withLater (fun a _ => by cases a <;> rfl) h
  case settle =>
    cases h
    unfold settle nextColumn
    by_cases hc : s.seq.col = 7#3 <;> simp [hc, withLater]
  all_goals cases h; rfl

theorem sequencerMove_withLater {later : List Answer} {s t : State} (h : sequencerMove s = some t) :
    sequencerMove (withLater later s) = some (withLater later t) := by
  obtain ⟨u, hu, rfl⟩ := sequencerMove_eq_some.1 h
  exact sequencerMove_eq_some.2 ⟨_, eventMove_withLater hu, seek_withLater later u⟩

/-- A DRAW in progress that makes `d` events in `j` steps makes them in `d` steps where more answers stand behind: there
it does not wait. -/
theorem run_withLater (later : List Answer) {j : Nat} {s u : State} (hs : seqConsistent s)
    (hr : ∀ rest, s.inputs ≠ .reset :: rest) (hb : ∀ m < j, ∃ v, run m s = .next v ∧ v.seq.busy = true)
    (hu : run j s = .next u) :
    ∃ d, u.trace.length = s.trace.length + d ∧
      ∀ m, run (m + d) (withLater later s) = run m (withLater later u) := by
  induction j generalizing s with
  | zero => cases hu; exact ⟨0, rfl, fun _ => rfl⟩
  | succ j ih =>
    obtain ⟨_, h0, hbusy⟩ := hb 0 j.succ_pos
    cases h0
    cases hm : sequencerMove s with
    | none =>
      rw [run_succ_next (step_of_wait hbusy hr hm)] at hu
      exact ih hs hr (fun m hmj => hb m (by omega)) hu
    | some t =>
      have hstep := step_of_move hbusy hr hm
      have hstep' := step_of_move (s := withLater later s) hbusy hr (sequencerMove_withLater hm)
      rw [run_succ_next hstep] at hu
      obtain ⟨d, hd, hrun⟩ := ih (sequencerMove_seqConsistent hs hm) ((sequencerMove_frame hm).2.2 ▸ hr)
        (fun m hmj => run_succ_next hstep ▸ hb (m + 1) (by omega)) hu
      obtain ⟨e, he⟩ := sequencerMove_trace hs hm
      refine ⟨d + 1, by simp [hd, he]; omega, fun m => ?_⟩
      rw [← Nat.add_assoc, run_succ_next hstep', hrun]

/-- Settles O34: `exec`'s own event counted as the first step, `run_withLater` from the DRAW's beginning. -/
theorem drawResumesWhereItWaited : Obligations.DrawResumesWhereItWaited := by
  intro n s t u j later hb hr ht hbusy hu ha _
  obtain rfl : advance (beginDraw n s) = t := by simpa [exec_draw_idle hb] using ht
  have hstep : step (beginDraw n s) = .next (advance (beginDraw n s)) := step_busy rfl hr
  have hstep' : step (withLater later (beginDraw n s)) = .next (advance (withLater later (beginDraw n s))) :=
    step_busy rfl hr
  have hbusy' : ∀ m < j + 1, ∃ v, run m (beginDraw n s) = .next v ∧ v.seq.busy = true
    | 0, _ => ⟨_, rfl, rfl⟩
    | m + 1, hm => run_succ_next hstep ▸ hbusy m (by omega)
  obtain ⟨d, hd, hrun⟩ := run_withLater later (s := beginDraw n s) trivial hr hbusy' (by rw [run_succ_next hstep, hu])
  obtain rfl : u.trace.length - s.trace.length = d := by simp [hd]
  have hw : { u with answers := later } = withLater later u := by simp [withLater, ha]
  refine ⟨_, exec_draw_idle (s := withLater later s) hb, fun m => ?_⟩
  rw [hw, ← hrun, Nat.add_right_comm, run_succ_next hstep']
  rfl

end Sys2Proof.Proofs

/-! The invariant of the block (10_state.md R34; 43_sequencer.md R161 to R171; 60_exceptions.md R209). -/

namespace Sys2Proof.Proofs

open Sys2Proof.Machine Sys2Proof.Laws

/-! The trace and `BUS.open` stand where the sequencer stands, at the silent places too. -/

/-- R34: `BUS.open` as the bus phase alone gives it. -/
@[simp] def phaseIsOpen : BusPhase → Bool
  | .closed => false
  | .failedOpen => false
  | .speedDue => true
  | .ready => true
  | .delayDue => true
  | .closeDue => true

/-- The part of `BlockInv` that the silent moves keep as well. -/
def busTracked (s : State) : Prop :=
  busAfter s.cfg .closed s.trace = some (seqPhase s) ∧ s.busOpen = phaseIsOpen (seqPhase s)

theorem seqPhase_idle {s : State} (hb : s.seq.busy = false) : seqPhase s = .closed := by
  simp [seqPhase, hb]

theorem phaseIsOpen_seqPhase (s : State) :
    phaseIsOpen (seqPhase s) =
      decide (s.seq.busy = true ∧ s.seq.point ≠ .openBus ∧ s.seq.point ≠ .closeUnopened) := by
  unfold seqPhase
  cases s.seq.busy with
  | false => rfl
  | true =>
    cases s.seq.point with
    | close st => cases st <;> rfl
    | _ => rfl

theorem blockInv_iff {s : State} : BlockInv s ↔ busTracked s ∧ (s.seq.busy = true → seqConsistent s) := by
  rw [busTracked, phaseIsOpen_seqPhase, and_assoc]
  rfl

theorem blockInv_of_idle {s : State} (hb : s.seq.busy = false) (ht : busTracked s) : BlockInv s :=
  blockInv_iff.2 ⟨ht, fun h => absurd (hb.symm.trans h) nofun⟩

/-- R163 to R165: the silent moves are all made in phase `ready`. -/
theorem silentMove_seqPhase {s t : State} (h : silentMove s = some t) : seqPhase t = seqPhase s := by
  cases hb : s.seq.busy with
  | false => rw [seqPhase_idle hb, seqPhase_idle ((silentMove_frame h).2.1.trans hb)]
  | true =>
    obtain ⟨hp, -, rfl⟩ | ⟨hp, -, rfl⟩ | ⟨hp, -, rfl⟩ | ⟨hp, -, rfl⟩ := silentMove_cases h
    · simp [seqPhase, hp, hb]
    · simp [seqPhase, hp, hb]
    · unfold nextColumn
      split <;> simp [seqPhase, hp, hb]
    · simp [seqPhase, hp, hb]

@[simp] theorem seek_seqPhase (s : State) : seqPhase (seek s) = seqPhase s :=
  seek_induct (P := fun t => seqPhase t = seqPhase s) (fun _ _ ht hm => (silentMove_seqPhase hm).trans ht) rfl

theorem seek_busTracked {s : State} (h : busTracked s) : busTracked (seek s) := by
  simpa [busTracked] using h

/-- An event the phase allows, with `BUS.open` as the phase after it says, keeps the trace and the bus in step. -/
theorem busTracked_of_event {s t : State} {e : Event} (hs : busTracked s) (hcfg : t.cfg = s.cfg)
    (htr : t.trace = s.trace ++ [e]) (hnext : busNext s.cfg (seqPhase s) e = some (seqPhase t))
    (hopen : t.busOpen = phaseIsOpen (seqPhase t)) : busTracked t := by
  refine ⟨?_, hopen⟩
  rw [hcfg, htr, busAfter_append [e] hs.1, busAfter, hnext]
  rfl

/-- R72, R164: the column byte of a column's packet is one-hot. -/
theorem columnPacket_valid (fb : FrameBuffer) (c : BitVec 3) :
    columnSelectValid (columnPacket fb c.toNat).p3 = true :=
  decide_eq_true ⟨⟨c.toNat, c.isLt⟩, rfl⟩

theorem nextColumn_seqPhase {s : State} (hb : s.seq.busy = true) : seqPhase (nextColumn s) = .ready := by
  unfold nextColumn
  split <;> simp [seqPhase, hb]

/-- R161, R162, R166 to R169: each place's event is one its phase allows, and leads to the phase of the next place. -/
theorem eventMove_busTracked {s t : State} (hb : s.seq.busy = true) (hc : seqConsistent s) (hs : busTracked s)
    (h : eventMove s = some t) : busTracked t := by
  have ho := hs.2
  obtain ⟨-, rfl⟩ | ⟨_, hp, -, rfl⟩ | ⟨_, hp, -, hf, rfl⟩ | ⟨_, hp, -, hf, rfl⟩ | ⟨hp, rfl⟩ | ⟨_, hp, -, rfl⟩ |
    ⟨_, hp, -, rfl⟩ | ⟨p, _, hp, -, rfl⟩ | ⟨p, _, hp, -, rfl⟩ | ⟨hp, rfl⟩ | ⟨st, hp, rfl⟩ := eventMove_cases h
  · exact hs
  all_goals
    simp only [seqConsistent, hp] at hc
    simp only [seqPhase, hp, hb, if_true] at ho
  · refine busTracked_of_event hs rfl rfl ?_ ?_ <;>
      cases he : s.cfg.speedEn <;> simp [seqPhase, hb, hp, he, busNext]
  · exact busTracked_of_event hs rfl rfl (by simp [seqPhase, hb, hp, hf, busNext]) (by simpa [seqPhase, hb] using ho)
  · exact busTracked_of_event hs rfl rfl (by simp [seqPhase, hb, hp, hf, busNext]) ho
  · exact busTracked_of_event hs rfl rfl (by simp [seqPhase, hb, hp, busNext]) ho
  · exact busTracked_of_event hs rfl rfl (by simp [seqPhase, hb, hp, busNext]) (by simpa [seqPhase, hb] using ho)
  · exact busTracked_of_event hs rfl rfl (by simp [seqPhase, hb, hp, busNext]) (by simpa [seqPhase, hb] using ho)
  · obtain ⟨-, rfl, hk⟩ := hc
    exact busTracked_of_event hs rfl rfl (by simp [seqPhase, hb, hp, busNext, columnPacket_valid, hk])
      (by simpa [seqPhase, hb] using ho)
  · obtain ⟨-, rfl, hk⟩ := hc
    exact busTracked_of_event hs rfl rfl (by simp [seqPhase, hb, hp, busNext, columnPacket_valid, hk])
      (by simpa [seqPhase, hb] using ho)
  · have hready : seqPhase { s with trace := s.trace ++ [.delay s.cfg.tCol], seq := (nextColumn s).seq } = .ready :=
      nextColumn_seqPhase hb
    exact busTracked_of_event hs rfl rfl (by rw [hready]; simp [seqPhase, hb, hp, busNext]) (by rw [hready]; exact ho)
  · obtain ⟨rfl, -⟩ | rfl := hc <;> exact busTracked_of_event hs rfl rfl (by simp [seqPhase, hb, hp, busNext]) rfl

/-- One event of a DRAW in progress, or none where it waits, keeps the invariant. -/
theorem advance_blockInv {s : State} (hb : s.seq.busy = true) (h : BlockInv s) : BlockInv (advance s) := by
  cases hm : sequencerMove s with
  | none => rwa [advance_wait hm]
  | some t =>
    rw [advance_move hm]
    obtain ⟨ht, hc⟩ := blockInv_iff.1 h
    obtain ⟨u, hu, rfl⟩ := sequencerMove_eq_some.1 hm
    exact blockInv_iff.2 ⟨seek_busTracked (eventMove_busTracked hb (hc hb) ht hu),
      fun _ => sequencerMove_seqConsistent (hc hb) hm⟩

/-- R160: a DRAW that has begun on an idle block stands before its `BusOpen`, the bus still closed. -/
theorem beginDraw_blockInv {n : BitVec 16} {s : State} (hb : s.seq.busy = false) (h : BlockInv s) :
    BlockInv (beginDraw n s) := by
  obtain ⟨ht, -⟩ := blockInv_iff.1 h
  refine blockInv_iff.2 ⟨?_, fun _ => trivial⟩
  rw [busTracked, seqPhase_idle hb] at ht
  exact ht

theorem exec_blockInv {i : Instr} {s t : State} (h : BlockInv s) (he : exec i s = .next t) : BlockInv t := by
  obtain ⟨-, -, r, rfl⟩ | ⟨_, _, _, _, -, hb, rfl⟩ | ⟨n, -, hb, rfl⟩ | ⟨_, -, hb, -, rfl⟩ := exec_next he
  · exact h
  · exact blockInv_of_idle hb (blockInv_iff.1 h).1
  · exact advance_blockInv rfl (beginDraw_blockInv hb h)
  · exact advance_blockInv hb h

/-- Settles O50: what a step can do by `step_next`; the sequencer's events keep the invariant by `advance_blockInv`, the
other steps leave the trace, the bus and the sequencer as they are, or reset all three. -/
theorem stepKeepsInvariant : Obligations.StepKeepsInvariant := by
  intro s t hinv h
  obtain ⟨-, -, rfl⟩ | ⟨_, -, -, rfl⟩ | ⟨_, _, _, -, -, -, rfl⟩ | ⟨_, rest, _, -, -, -, he⟩ | ⟨hb, rfl⟩ := step_next h
  · exact hinv
  · exact blockInv_of_idle rfl ⟨rfl, rfl⟩
  · exact hinv
  · exact exec_blockInv (s := { s with inputs := rest }) hinv he
  · exact advance_blockInv hb hinv

end Sys2Proof.Proofs

/-! The registers no step writes, and the debug level, which none reads (10_state.md R21, R27, R31; 42_frame_buffer.md
R154; 70_reset_and_hazards.md R221). -/

namespace Sys2Proof.Proofs

open Sys2Proof.Machine Sys2Proof.Laws

/-- Settles O43: each row of `resetGrid` is the replicated byte. -/
theorem resetStateValues : Obligations.ResetStateValues := by
  refine ⟨fun k => ?_, rfl, rfl, rfl⟩
  have hk : resetGrid.get k = 0xFF#8 := by simp [resetGrid, Vector.get]
  exact ⟨hk, hk, hk⟩

/-! The registers no operation writes. -/

@[simp] theorem advance_fb (s : State) : (advance s).fb = s.fb := (advance_frame s).1

@[simp] theorem advance_cfg (s : State) : (advance s).cfg = s.cfg := (advance_frame s).2.1

theorem exec_fb {i : Instr} {s t : State} (hi : ∀ m r g b, i ≠ .setfrm m r g b) (h : exec i s = .next t) :
    t.fb = s.fb := by
  obtain ⟨-, -, _, rfl⟩ | ⟨m, r, g, b, rfl, -, -⟩ | ⟨n, -, -, rfl⟩ | ⟨_, -, -, -, rfl⟩ := exec_next h
  · rfl
  · exact absurd rfl (hi m r g b)
  · exact advance_fb (beginDraw n s)
  · exact advance_fb s

theorem exec_cfg {i : Instr} {s t : State} (h : exec i s = .next t) : t.cfg = s.cfg := by
  obtain ⟨-, -, _, rfl⟩ | ⟨_, _, _, _, -, -, rfl⟩ | ⟨n, -, -, rfl⟩ | ⟨_, -, -, -, rfl⟩ := exec_next h
  · rfl
  · rfl
  · exact advance_cfg (beginDraw n s)
  · exact advance_cfg s

theorem step_next_of_busy {s t : State} (hb : s.seq.busy = true) (h : step s = .next t) : t = advance s := by
  have hidle : s.seq.busy ≠ false := by simp [hb]
  obtain ⟨hi, -, -⟩ | ⟨_, hi, -, -⟩ | ⟨_, _, _, hi, -, -, -⟩ | ⟨_, _, _, hi, -, -, -⟩ | ⟨-, ht⟩ := step_next h
  iterate 4 exact absurd hi hidle
  exact ht

/-- Settles O26: `exec_fb`, and `advance_fb` for a later step of a DRAW. -/
theorem onlySetfrmWritesTheFrame : Obligations.OnlySetfrmWritesTheFrame := by
  refine ⟨fun i s t => exec_fb, fun s t hb h => ?_⟩
  rw [step_next_of_busy hb h]
  exact advance_fb s

/-- Settles O45: `exec_cfg` for a request, `advance_cfg` for a DRAW in progress; reset keeps the configuration. -/
theorem configurationIsNeverWritten : Obligations.ConfigurationIsNeverWritten := by
  intro s t h
  obtain ⟨-, -, rfl⟩ | ⟨_, -, -, rfl⟩ | ⟨_, _, _, -, -, -, rfl⟩ | ⟨_, rest, _, -, -, -, he⟩ | ⟨-, rfl⟩ := step_next h
  · rfl
  · rfl
  · rfl
  · exact exec_cfg (s := { s with inputs := rest }) he
  · exact advance_cfg s

/-! An instruction executed on an idle block. -/

/-- A pure operation's response is the same in every idle state. -/
theorem exec_pure {i : Instr} (hi : PureOperation i) :
    ∃ r, ∀ s : State, s.seq.busy = false → exec i s = .next (respond r s) := by
  have key (c : Except Status Result) : ∃ r, ∀ s : State, s.seq.busy = false →
      accept s (conclude c) = .next (respond r s) :=
    ⟨_, fun s hb => (accept_idle hb _).trans (congrArg _ (conclude_eq c s))⟩
  cases i with
  | setfrm _ _ _ _ => exact hi.elim
  | draw _ => exact hi.elim
  | wirepkt _ => exact hi.elim
  | _ => exact key _

theorem exec_setfrm_idle {m : Bool} {r g b : Grid} {s : State} (hb : s.seq.busy = false) :
    exec (.setfrm m r g b) s =
      .next (finish .none (storeFrame ⟨storedGrid m r, storedGrid m g, storedGrid m b⟩ s)) := by
  simp [exec, execSetfrm, hb]

theorem exec_wirepkt_idle {p : Packet} {s : State} (hb : s.seq.busy = false) :
    exec (.wirepkt p) s = .refused .packetNotOffered := by
  simp [exec, execWirepkt, hb]

/-! Noninterference, packaged once: two states that look alike take steps that look alike. -/

/-- Two views of the state such that states which look alike (`v s = v' s'`) do so again after every operation a step is
made of. -/
structure Lookalike (v v' : State → State) : Prop where
  busy {s s' : State} : v s = v' s' → s.seq.busy = s'.seq.busy
  inputs {s s' : State} : v s = v' s' → s.inputs = s'.inputs
  take {s s' : State} (rest : List HostInput) :
    v s = v' s' → v { s with inputs := rest } = v' { s' with inputs := rest }
  reset {s s' : State} : v s = v' s' → v (applyReset s) = v' (applyReset s')
  respond {s s' : State} (r : Response) : v s = v' s' → v (respond r s) = v' (respond r s')
  store {s s' : State} (fb : FrameBuffer) : v s = v' s' → v (storeFrame fb s) = v' (storeFrame fb s')
  begin {s s' : State} (n : BitVec 16) : s.seq.busy = false → v s = v' s' → v (beginDraw n s) = v' (beginDraw n s')
  advance {s s' : State} : s.seq.busy = true → v s = v' s' → v (advance s) = v' (advance s')

theorem Lookalike.mapNext_exec {v v' : State → State} (hv : Lookalike v v') {s s' : State} (h : v s = v' s')
    (hb : s.seq.busy = false) (i : Instr) : mapNext v (exec i s) = mapNext v' (exec i s') := by
  have hb' : s'.seq.busy = false := hv.busy h ▸ hb
  have pure (hi : PureOperation i) : mapNext v (exec i s) = mapNext v' (exec i s') := by
    obtain ⟨r, hr⟩ := exec_pure hi
    rw [hr s hb, hr s' hb']
    exact congrArg _ (hv.respond r h)
  cases i with
  | setfrm m r g b =>
    rw [exec_setfrm_idle hb, exec_setfrm_idle hb']
    exact congrArg _ (hv.respond _ (hv.store _ h))
  | draw n =>
    rw [exec_draw_idle hb, exec_draw_idle hb']
    exact congrArg _ (hv.advance rfl (hv.begin n hb h))
  | wirepkt p => rw [exec_wirepkt_idle hb, exec_wirepkt_idle hb']; rfl
  | _ => exact pure trivial

theorem step_idle {s : State} (hb : s.seq.busy = false) : step s = idleStep s := by
  simp [step, hb]

theorem step_busy_reset {s : State} {rest : List HostInput} (hb : s.seq.busy = true) (hi : s.inputs = .reset :: rest) :
    step s = .refused .resetDuringRequest := by
  simp [step, hb, busyStep, hi]

theorem Lookalike.mapNext_step {v v' : State → State} (hv : Lookalike v v') {s s' : State} (h : v s = v' s') :
    mapNext v (step s) = mapNext v' (step s') := by
  have hbb := hv.busy h
  have hii := hv.inputs h
  cases hb : s.seq.busy with
  | false =>
    rw [step_idle hb, step_idle (hbb ▸ hb), idleStep, idleStep, ← hii]
    cases s.inputs with
    | nil => exact congrArg _ h
    | cons i rest =>
      cases i with
      | reset => exact congrArg _ (hv.reset (hv.take rest h))
      | request bs =>
        simp only [serveRequest]
        cases decodeRequest bs with
        | ok i => exact hv.mapNext_exec (hv.take rest h) hb i
        | error e => exact congrArg _ (hv.respond _ (hv.take rest h))
  | true =>
    by_cases hr : ∃ rest, s.inputs = .reset :: rest
    · obtain ⟨rest, hr⟩ := hr
      rw [step_busy_reset hb hr, step_busy_reset (hbb ▸ hb) (hii ▸ hr)]
      rfl
    · have hr : ∀ rest, s.inputs ≠ .reset :: rest := not_exists.1 hr
      rw [step_busy hb hr, step_busy (hbb ▸ hb) (hii ▸ hr)]
      exact congrArg _ (hv.advance hb h)

/-- Two calls alike, whose answers are taken alike. -/
theorem ask_map_congr {v v' : State → State} {c : Call} {k k' : Answer → State → State} {s s' : State}
    (ha : s.answers = s'.answers)
    (hk : ∀ a rest, v (k a (emit (.call c a) { s with answers := rest })) =
      v' (k' a (emit (.call c a) { s' with answers := rest }))) :
    (ask c k s).map v = (ask c k' s').map v' := by
  unfold ask
  rw [← ha]
  cases s.answers with
  | nil => rfl
  | cons a rest => exact congrArg some (hk a rest)

/-! R31: the debug level. -/

/-- The state with another debug level. -/
def withDebug (d : Nat) (s : State) : State := { s with cfg := { s.cfg with debug := d } }

theorem ask_withDebug {d : Nat} {c : Call} {k : Answer → State → State} {s : State}
    (hk : ∀ a t, k a (withDebug d t) = withDebug d (k a t)) :
    ask c k (withDebug d s) = (ask c k s).map (withDebug d) := by
  rw [← Option.map_id_apply (x := ask c k (withDebug d s))]
  exact ask_map_congr rfl fun a rest => hk a (emit (.call c a) { s with answers := rest })

theorem nextColumn_withDebug (d : Nat) (s : State) : nextColumn (withDebug d s) = withDebug d (nextColumn s) := by
  unfold nextColumn
  by_cases hc : s.seq.col = 7#3 <;> simp [hc, withDebug]

theorem eventMove_withDebug (d : Nat) (s : State) : eventMove (withDebug d s) = (eventMove s).map (withDebug d) := by
  have hp : (withDebug d s).seq.point = s.seq.point := rfl
  unfold eventMove
  rw [hp]
  cases s.seq.point with
  | openBus =>
    refine ask_withDebug fun a t => ?_
    cases a with
    | ok => cases he : t.cfg.speedEn <;> simp [he, withDebug, setBusOpen, goto, startSweep]
    | fail => cases hf : t.cfg.closeAfterFailedOpen <;> simp [hf, withDebug, goto, raise, respond, goIdle]
  | setSpeed => exact ask_withDebug fun a _ => by cases a <;> rfl
  | transmit p => exact ask_withDebug fun a _ => by cases a <;> rfl
  | settle => exact congrArg some (nextColumn_withDebug d (emit (.delay s.cfg.tCol) s))
  | _ => rfl

theorem seek_withDebug (d : Nat) (s : State) : seek (withDebug d s) = withDebug d (seek s) :=
  calc seek (withDebug d s)
    _ = { withDebug d s with seq := (seek s).seq } := seek_congr rfl rfl
    _ = withDebug d (seek s) := congrArg (withDebug d) (seek_frame s).1.symm

theorem advance_withDebug (d : Nat) (s : State) : advance (withDebug d s) = withDebug d (advance s) := by
  unfold advance sequencerMove
  rw [eventMove_withDebug]
  cases eventMove s with
  | none => rfl
  | some t => exact seek_withDebug d t

theorem withDebug_lookalike (d : Nat) : Lookalike id (withDebug d) where
  busy h := congrArg (·.seq.busy) h
  inputs h := congrArg (·.inputs) h
  take rest h := congrArg (fun s => { s with inputs := rest }) h
  reset h := congrArg applyReset h
  respond r h := congrArg (respond r) h
  store fb h := congrArg (storeFrame fb) h
  begin n _ h := congrArg (beginDraw n) h
  advance _ h := (congrArg advance h).trans (advance_withDebug d _)

theorem mapNext_id (o : Host.Outcome State Fault Refusal) : mapNext id o = o := by
  cases o <;> rfl

/-- Settles O46: `Lookalike.mapNext_step` from the state with the other debug level and the state itself. -/
theorem debugLevelHasNoEffect : Obligations.DebugLevelHasNoEffect := fun s d =>
  (mapNext_id _).symm.trans ((withDebug_lookalike d).mapNext_step (s := withDebug d s) rfl)

end Sys2Proof.Proofs

/-! What a step reads of the frame and of the sequencer's registers (10_state.md R21, R25; 41_frame_codec.md R136). -/

namespace Sys2Proof.Proofs

open Sys2Proof.Machine Sys2Proof.Laws

/-! R21, R136: the frame buffer is read by a DRAW alone. -/

/-- R166: sending a packet that is already packed reads no pixel. -/
theorem advance_transmit_frame {p : Packet} {s : State} (hp : s.seq.point = .transmit p) (fb : FrameBuffer) :
    { advance { s with fb := fb } with fb := (advance s).fb } = advance s := by
  have hp' : { s with fb := fb }.seq.point = .transmit p := hp
  simp only [advance, sequencerMove_transmit hp, sequencerMove_transmit hp', transmit, ask]
  cases ha : s.answers with
  | nil => simp [← ha]
  | cons a rest => cases a <;> simp [goto, emit]

/-- Settles O48: what the instruction does by `exec_next`, done again on the state with the other frame. -/
theorem onlyDrawReadsTheFrame : Obligations.OnlyDrawReadsTheFrame := by
  intro i s t fb hi h
  obtain ⟨hpure, hb, -⟩ | ⟨m, r, g, b, rfl, hb, rfl⟩ | ⟨n, rfl, -, -⟩ | ⟨p, rfl, hb, hp, rfl⟩ := exec_next h
  · obtain ⟨r, hr⟩ := exec_pure hpure
    obtain rfl : respond r s = t := by simpa [hr s hb] using h
    exact ⟨_, hr { s with fb := fb } hb, rfl⟩
  · exact ⟨_, exec_setfrm_idle (s := { s with fb := fb }) hb, rfl⟩
  · exact absurd rfl (hi n)
  · exact ⟨_, exec_wirepkt_offered (s := { s with fb := fb }) hb hp, advance_transmit_frame hp fb⟩

/-! R25, U10: the sequencer's unspecified registers. -/

/-- What is unread depends on the sequencer's registers alone. -/
theorem eraseUnread_of_seq {s s' : State} (h : s'.seq = s.seq) :
    eraseUnread s' = { s' with seq := (eraseUnread s).seq } := by
  unfold eraseUnread
  rw [h]
  cases hb : s.seq.busy with
  | false => rfl
  | true => cases hp : s.seq.point <;> simp [← h]

theorem eraseUnread_frame (s : State) : eraseUnread s = { s with seq := (eraseUnread s).seq } :=
  eraseUnread_of_seq rfl

@[simp] theorem eraseUnread_busy (s : State) : (eraseUnread s).seq.busy = s.seq.busy := by
  unfold eraseUnread
  cases hb : s.seq.busy with
  | false => rfl
  | true => cases s.seq.point <;> simp [hb]

theorem eraseUnread_point {s : State} (hb : s.seq.busy = true) : (eraseUnread s).seq.point = s.seq.point := by
  unfold eraseUnread
  cases hp : s.seq.point <;> simp [hb, hp]

theorem eraseUnread_idle {s : State} (hb : s.seq.busy = false) : eraseUnread s = { s with seq := resetSeq } := by
  simp [eraseUnread, hb]

@[simp] theorem eraseUnread_eraseUnread (s : State) : eraseUnread (eraseUnread s) = eraseUnread s := by
  cases hb : s.seq.busy with
  | false => rw [eraseUnread_idle hb]; rfl
  | true => cases hp : s.seq.point <;> simp [eraseUnread, hb, hp]

/-- No event depends on a register unread at its place. -/
theorem eventMove_eraseUnread {s : State} (hb : s.seq.busy = true) :
    (eventMove (eraseUnread s)).map eraseUnread = (eventMove s).map eraseUnread := by
  unfold eventMove
  rw [eraseUnread_point hb]
  cases hp : s.seq.point
  case openBus =>
    rw [eraseUnread_frame s]
    refine ask_map_congr rfl fun a rest => ?_
    cases a
    · cases he : s.cfg.speedEn <;> simp [eraseUnread, he, hb, hp, goto, setBusOpen, startSweep, emit]
    · cases hf : s.cfg.closeAfterFailedOpen <;> simp [eraseUnread, hf, hb, hp, goto, emit, goIdle, raise, respond]
  case setSpeed =>
    rw [eraseUnread_frame s]
    refine ask_map_congr rfl fun a rest => ?_
    cases a <;> simp [eraseUnread, hb, hp, goto, startSweep, emit]
  case closeUnopened => simp [releaseUnopened, eraseUnread, hb, hp, emit, goIdle, raise, respond]
  case close => simp [release, eraseUnread, hb, hp, setBusOpen, emit, goIdle, respond]
  case loop => simp
  case column => simp
  case transmit => simp [eraseUnread, hb, hp]
  case settle => simp [eraseUnread, hb, hp]

/-- At the loop test, seeking makes the test and then goes on. -/
theorem seek_loop {s : State} (hp : s.seq.point = .loop) : seek s = seekFor (9 * s.seq.n.toNat) (loopTest s) := by
  simp [seek, seekFor, silentMove, hp]

theorem seekFor_of_event {s : State} (k : Nat) (h : s.seq.point ≠ .loop ∧ s.seq.point ≠ .column) : seekFor k s = s := by
  cases k with
  | zero => rfl
  | succ k => simp [seekFor, silentMove_eq_none.2 h]

/-- R163: the loop test reads no column; where it goes on, it sets the column the silent moves after it read. -/
theorem seek_eraseUnread_loop {s : State} (hb : s.seq.busy = true) (hp : s.seq.point = .loop) :
    eraseUnread (seek (eraseUnread s)) = eraseUnread (seek s) := by
  have he : eraseUnread s = { s with seq := { s.seq with col := 0#3 } } := by simp [eraseUnread, hb, hp]
  rw [he, seek_loop hp, seek_loop (by exact hp)]
  by_cases hn : s.seq.iter = s.seq.n
  · simp [loopTest, hn, seekFor_of_event, eraseUnread, hb, goto]
  · simp [loopTest, hn]

theorem seek_eraseUnread (s : State) : eraseUnread (seek (eraseUnread s)) = eraseUnread (seek s) := by
  cases hb : s.seq.busy with
  | false =>
    have h := eraseUnread_idle (s := seek s) (by simp [hb])
    have h' := eraseUnread_idle (s := seek (eraseUnread s)) (by simp [hb])
    rw [h, h', (seek_frame s).1, (seek_frame (eraseUnread s)).1, eraseUnread_frame s]
  | true =>
    by_cases hl : s.seq.point = .loop
    · exact seek_eraseUnread_loop hb hl
    by_cases hc : s.seq.point = .column
    · have he : eraseUnread s = s := by simp [eraseUnread, hb, hc]
      rw [he]
    · have hp := eraseUnread_point hb
      rw [seek_of_event ⟨hl, hc⟩, seek_of_event ⟨hp ▸ hl, hp ▸ hc⟩, eraseUnread_eraseUnread]

/-- R25: the sequencer goes on alike, or waits alike, whatever the unread registers hold. -/
theorem advance_eraseUnread {s : State} (hb : s.seq.busy = true) :
    eraseUnread (advance (eraseUnread s)) = eraseUnread (advance s) := by
  have hmap (o : Option State) :
      (o.map seek).map eraseUnread = (o.map eraseUnread).map fun t => eraseUnread (seek t) := by
    simp [Option.map_map, Function.comp_def, seek_eraseUnread]
  have hm : (sequencerMove (eraseUnread s)).map eraseUnread = (sequencerMove s).map eraseUnread := by
    rw [sequencerMove, sequencerMove, hmap, hmap, eventMove_eraseUnread hb]
  have hwait (s : State) : eraseUnread (advance s) = ((sequencerMove s).map eraseUnread).getD (eraseUnread s) :=
    (Option.getD_map ..).symm
  rw [hwait, hwait, hm, eraseUnread_eraseUnread]

/-- States that look alike differ in the sequencer's registers only. -/
theorem frame_eq_of_eraseUnread {s s' : State} (h : eraseUnread s = eraseUnread s') (q : Seq) :
    { s with seq := q } = { s' with seq := q } := by
  have := congrArg (fun t : State => { t with seq := q }) h
  rwa [eraseUnread_frame s, eraseUnread_frame s'] at this

/-- An operation that neither reads nor writes the sequencer is made alike on states that look alike. -/
theorem eraseUnread_op_congr {op : State → State} (hop : ∀ s q, op { s with seq := q } = { op s with seq := q })
    {s s' : State} (h : eraseUnread s = eraseUnread s') : eraseUnread (op s) = eraseUnread (op s') := by
  have key (s : State) : eraseUnread (op s) = op (eraseUnread s) := by
    have hseq : (op s).seq = s.seq := (congrArg State.seq (hop s s.seq) :)
    rw [eraseUnread_of_seq hseq, ← hop, ← eraseUnread_frame]
  rw [key, key, h]

theorem eraseUnread_lookalike : Lookalike eraseUnread eraseUnread where
  busy {s s'} h := by rw [← eraseUnread_busy s, h, eraseUnread_busy]
  inputs h := (congrArg State.inputs (frame_eq_of_eraseUnread h resetSeq) :)
  take _ h := eraseUnread_op_congr (op := fun s => { s with inputs := _ }) (fun _ _ => rfl) h
  reset h := (congrArg (fun s => eraseUnread (applyReset s)) (frame_eq_of_eraseUnread h resetSeq) :)
  respond _ h := eraseUnread_op_congr (fun _ _ => rfl) h
  store _ h := eraseUnread_op_congr (fun _ _ => rfl) h
  begin n _ h := frame_eq_of_eraseUnread h ⟨true, n, 0#16, 0#3, .openBus⟩
  advance {s s'} hb h := by
    have hb' : s'.seq.busy = true := by rw [← eraseUnread_busy s', ← h, eraseUnread_busy, hb]
    rw [← advance_eraseUnread hb, h, advance_eraseUnread hb']

/-- Settles O47: `Lookalike.mapNext_step`, both states seen without the registers that are unread. -/
theorem unspecifiedSequencerRegistersAreUnread : Obligations.UnspecifiedSequencerRegistersAreUnread :=
  fun _ _ => eraseUnread_lookalike.mapNext_step

end Sys2Proof.Proofs

/-! What the request decoder reads and the encoder writes (30_encoding.md R77 to R84). -/

namespace Sys2Proof.Proofs

open Sys2Proof.Machine Sys2Proof.Laws

theorem except_map_eq_ok {ε α β : Type} {x : Except ε α} {f : α → β} {b : β} :
    x.map f = .ok b ↔ ∃ a, x = .ok a ∧ f a = b := by
  cases x <;> simp [Except.map]

theorem except_bind_eq_ok {ε α β : Type} {x : Except ε α} {f : α → Except ε β} {b : β} :
    (x >>= f) = .ok b ↔ ∃ a, x = .ok a ∧ f a = .ok b := by
  cases x <;> simp [bind, Except.bind]

/-! The `FlagSeq` operand (R80). -/

theorem testBit_flagSeqValue (f : FlagSeq) (k : Nat) : (flagSeqValue f).testBit k = f.getD k false := by
  induction f generalizing k with
  | nil => simp [flagSeqValue]
  | cons b f ih =>
    cases k with
    | zero => cases b <;> simp [flagSeqValue]
    | succ k =>
      have hhalf : (b.toNat + 2 * flagSeqValue f) / 2 = flagSeqValue f := by have := b.toNat_lt; omega
      rw [flagSeqValue, Nat.testBit_succ, hhalf, ih, List.getD_cons_succ]

theorem wellFormed_flagSeq_iff {f : FlagSeq} : FlagSeq.wellFormed f = true ↔ f.length ≤ 16 :=
  decide_eq_true_iff

theorem decodeFlagSeq_error {len lo hi : Byte} (h : 16 < len.toNat) :
    decodeFlagSeq len lo hi = .error (.flagSeqTooLong len) :=
  if_pos h

theorem decodeFlagSeq_ok {len lo hi : Byte} (h : len.toNat ≤ 16) :
    decodeFlagSeq len lo hi = .ok ((List.range len.toNat).map fun k => (hi ++ lo).getLsbD k) :=
  if_neg (not_lt.2 h)

theorem decodeFlagSeq_wellFormed {len lo hi : Byte} {f : FlagSeq} (h : decodeFlagSeq len lo hi = .ok f) :
    FlagSeq.wellFormed f = true := by
  rcases Nat.lt_or_ge 16 len.toNat with hl | hl
  · simp [decodeFlagSeq_error hl] at h
  · rw [decodeFlagSeq_ok hl] at h
    cases h
    exact wellFormed_flagSeq_iff.2 (by simpa using hl)

/-- The two flag bytes of a number hold its low 16 bits, low byte first. -/
theorem getLsbD_flagBytes (v k : Nat) (hk : k < 16) :
    (BitVec.ofNat 8 (v / 256) ++ BitVec.ofNat 8 v).getLsbD k = v.testBit k := by
  rw [BitVec.getLsbD_append, BitVec.getLsbD_ofNat, BitVec.getLsbD_ofNat]
  split
  · rename_i h8
    simp [h8]
  · rename_i h8
    have hdiv : (v / 2 ^ 8).testBit (k - 8) = v.testBit k := by
      rw [Nat.testBit_div_two_pow, Nat.sub_add_cancel (not_lt.1 h8)]
    have hk8 : k - 8 < 8 := by omega
    simpa [hk8] using hdiv

/-- R80: a sequence the format can carry is read back from its three bytes. -/
theorem decodeFlagSeq_encode {f : FlagSeq} (hf : FlagSeq.wellFormed f = true) :
    decodeFlagSeq (BitVec.ofNat 8 f.length) (BitVec.ofNat 8 (flagSeqValue f)) (BitVec.ofNat 8 (flagSeqValue f / 256)) =
      .ok f := by
  have hlen : f.length ≤ 16 := wellFormed_flagSeq_iff.1 hf
  have hnat : (BitVec.ofNat 8 f.length).toNat = f.length := by rw [BitVec.toNat_ofNat, Nat.mod_eq_of_lt (by omega)]
  rw [decodeFlagSeq_ok (hnat.trans_le hlen), hnat]
  refine congrArg _ (List.ext_getElem (by simp) fun k _ hk => ?_)
  rw [List.getElem_map, List.getElem_range, getLsbD_flagBytes _ _ (by omega), testBit_flagSeqValue,
    List.getD_eq_getElem _ _ hk]

/-! A 16-bit number in two bytes (R77). -/

theorem append_bytes (w : BitVec 16) : (w >>> 8).setWidth 8 ++ w.setWidth 8 = w := by
  ext j hj
  rw [BitVec.getElem_append]
  split
  · simp [BitVec.getLsbD_eq_getElem hj]
  · simp [Nat.add_sub_cancel' (show 8 ≤ j by omega), BitVec.getLsbD_eq_getElem hj]

theorem highByte_append (hi lo : Byte) : ((hi ++ lo) >>> 8).setWidth 8 = hi := by
  ext j hj
  rw [BitVec.getElem_setWidth, BitVec.getLsbD_ushiftRight, BitVec.getLsbD_append, if_neg (by omega),
    Nat.add_sub_cancel_left, BitVec.getLsbD_eq_getElem hj]

theorem toNat_append_bytes (lo hi : Byte) : (hi ++ lo).toNat = lo.toNat + 256 * hi.toNat := by
  rw [BitVec.toNat_append, ← Nat.shiftLeft_add_eq_or_of_lt lo.isLt, Nat.shiftLeft_eq]
  omega

/-! The mirror flag and the grids of SETFRM (R83). -/

theorem decodeMirror_eq_ok {m : Byte} {b : Bool} : decodeMirror m = .ok b ↔ m = encodeMirror b := by
  unfold decodeMirror encodeMirror
  by_cases h0 : m = 0#8
  · subst h0; cases b <;> simp
  · by_cases h1 : m = 1#8
    · subst h1; cases b <;> simp
    · cases b <;> simp [h0, h1]

theorem decodeGrid_eq_ok {bs : List Byte} {g : Grid} : decodeGrid bs = .ok g ↔ bs = g.toList := by
  unfold decodeGrid
  constructor
  · intro h
    split at h <;> cases h
    simp
  · rintro rfl
    rw [dif_pos (by simp)]
    rfl

/-- R83: SETFRM's operands are the mirror flag and three grids, one after the other. -/
theorem decodeOperands_setfrm_eq_ok {m : Byte} {rows : List Byte} {i : Instr} :
    decodeOperands .setfrm (m :: rows) = .ok i ↔
      ∃ (mirror : Bool) (red green blue : Grid), m = encodeMirror mirror ∧
        rows = red.toList ++ green.toList ++ blue.toList ∧ i = .setfrm mirror red green blue := by
  simp only [decodeOperands, except_bind_eq_ok, decodeMirror_eq_ok, decodeGrid_eq_ok]
  constructor
  · rintro ⟨mirror, hm, red, hr, green, hg, blue, hb, h⟩
    refine ⟨mirror, red, green, blue, hm, ?_, (Except.ok.inj h).symm⟩
    calc rows = rows.take 8 ++ ((rows.drop 8).take 8 ++ (rows.drop 8).drop 8) := by simp only [List.take_append_drop]
      _ = red.toList ++ green.toList ++ blue.toList := by rw [List.drop_drop, hr, hg, hb, List.append_assoc]
  · rintro ⟨mirror, red, green, blue, rfl, rfl, rfl⟩
    refine ⟨mirror, rfl, red, ?_, green, ?_, blue, ?_, rfl⟩ <;> simp [List.drop_append]

/-! The opcode and the length (R77, R78). -/

@[simp] theorem ofByte_toByte (op : Opcode) : Opcode.ofByte op.toByte = some op := by
  cases op <;> rfl

theorem ofByte_eq_some {b : Byte} {op : Opcode} (h : Opcode.ofByte b = some op) : b = op.toByte := by
  unfold Opcode.ofByte at h
  split_ifs at h <;> cases h <;> assumption

/-- R77: a request of its format's length is read by its format. -/
theorem decodeRequest_toByte {op : Opcode} {bs : List Byte} (h : bs.length + 1 = op.length) :
    decodeRequest (op.toByte :: bs) = decodeOperands op bs := by
  simp [decodeRequest, h]

/-- R77: a request that decodes is an opcode and operands its format reads. -/
theorem decodeRequest_ok {bs : List Byte} {i : Instr} (h : decodeRequest bs = .ok i) :
    ∃ op ops, bs = Opcode.toByte op :: ops ∧ decodeOperands op ops = .ok i := by
  cases bs with
  | nil => cases h
  | cons b ops =>
    rw [decodeRequest] at h
    split at h
    · cases h
    · rename_i op hop
      split at h
      · exact ⟨op, ops, by rw [ofByte_eq_some hop], h⟩
      · cases h

/-! Formats FS and EC (R80, R82). -/

theorem decodeRequest_b2byte_eq_ok {len lo hi : Byte} {f : FlagSeq} :
    decodeRequest [0x04#8, len, lo, hi] = .ok (.b2byte f) ↔ decodeFlagSeq len lo hi = .ok f := by
  rw [show decodeRequest [0x04#8, len, lo, hi] = (decodeFlagSeq len lo hi).map .b2byte from rfl, except_map_eq_ok]
  simp

theorem decodeRequest_enccol {rl r0 r1 gl g0 g1 bl b0 b1 col : Byte} {r g b : FlagSeq}
    (hr : decodeFlagSeq rl r0 r1 = .ok r) (hg : decodeFlagSeq gl g0 g1 = .ok g) (hb : decodeFlagSeq bl b0 b1 = .ok b) :
    decodeRequest [0x10#8, rl, r0, r1, gl, g0, g1, bl, b0, b1, col] = .ok (.enccol r g b col) := by
  refine (decodeRequest_toByte (op := .enccol) rfl).trans ?_
  simp [decodeOperands, hr, hg, hb, bind, Except.bind]

/-! The two directions of the round trip. -/

/-- Settles O1: each constructor's operands are read back, flag sequences by `decodeFlagSeq_encode`, grids by
`decodeOperands_setfrm_eq_ok`, the 16-bit number by `append_bytes`. -/
theorem decodeEncodeRoundTrip : Obligations.DecodeEncodeRoundTrip := by
  intro i h
  cases i with
  | setbit idx val => rfl
  | clrbit idx val => rfl
  | tstbit idx val => rfl
  | b2byte f => exact decodeRequest_b2byte_eq_ok.2 (decodeFlagSeq_encode h)
  | byte2b val => rfl
  | enccol r g b col =>
    simp only [Instr.wellFormed, Bool.and_eq_true] at h
    obtain ⟨⟨hr, hg⟩, hb⟩ := h
    exact decodeRequest_enccol (decodeFlagSeq_encode hr) (decodeFlagSeq_encode hg) (decodeFlagSeq_encode hb)
  | decpkt p => rfl
  | setfrm m r g b =>
    exact (decodeRequest_toByte (by simp [Opcode.length])).trans
      (decodeOperands_setfrm_eq_ok.2 ⟨m, r, g, b, rfl, rfl, rfl⟩)
  | draw n => exact congrArg (fun n => Except.ok (Instr.draw n)) (append_bytes n)
  | wirepkt p => rfl

/-- R77, R80: what a request that decodes says of the instruction: it is well formed, travels on the request port, its
encoding is as long as the request, and equal to it where the format ignores no bit. -/
def readsFaithfully (bs : List Byte) (i : Instr) : Prop :=
  i.wellFormed = true ∧ i.channel = .requestPort ∧ bs.length = (encode i).length ∧
    (((∀ f, i ≠ .b2byte f) ∧ (∀ r g b c, i ≠ .enccol r g b c)) → encode i = bs)

theorem decodeOperands_readsFaithfully {op : Opcode} {bs : List Byte} {i : Instr} (h : decodeOperands op bs = .ok i) :
    readsFaithfully (op.toByte :: bs) i := by
  cases op with
  | b2byte =>
    dsimp only [decodeOperands] at h
    split at h
    · obtain ⟨f, hf, rfl⟩ := except_map_eq_ok.1 h
      exact ⟨decodeFlagSeq_wellFormed hf, rfl, rfl, fun hne => absurd rfl (hne.1 f)⟩
    · cases h
  | enccol =>
    dsimp only [decodeOperands] at h
    split at h
    · simp only [except_bind_eq_ok] at h
      obtain ⟨r, hr, g, hg, b, hb, hi⟩ := h
      cases hi
      refine ⟨?_, rfl, rfl, fun hne => absurd rfl (hne.2 r g b _)⟩
      simp [Instr.wellFormed, decodeFlagSeq_wellFormed hr, decodeFlagSeq_wellFormed hg, decodeFlagSeq_wellFormed hb]
    · cases h
  | setfrm =>
    cases bs with
    | nil => cases h
    | cons m rows =>
      obtain ⟨mirror, r, g, b, rfl, rfl, rfl⟩ := decodeOperands_setfrm_eq_ok.1 h
      exact ⟨rfl, rfl, rfl, fun _ => rfl⟩
  | draw =>
    dsimp only [decodeOperands] at h
    split at h <;> cases h
    rename_i lo hi
    exact ⟨rfl, rfl, rfl, fun _ => by simp only [encode, BitVec.setWidth_append_eq_right, highByte_append]⟩
  | _ =>
    dsimp only [decodeOperands] at h
    split at h <;> cases h
    exact ⟨rfl, rfl, rfl, fun _ => rfl⟩

/-- Settles O2: `decodeRequest_ok`, then `decodeOperands_readsFaithfully`. -/
theorem decodedRequestsAreWellFormed : Obligations.DecodedRequestsAreWellFormed := by
  intro bs i h
  obtain ⟨op, ops, rfl, hops⟩ := decodeRequest_ok h
  exact decodeOperands_readsFaithfully hops

/-! How operands are read. -/

/-- Settles O3: `decodeFlagSeq_error` and `decodeFlagSeq_ok`; an element is in the low or the high byte. -/
theorem flagSeqOperandReading : Obligations.FlagSeqOperandReading := by
  intro len lo hi
  refine ⟨fun h => ⟨.flagSeqTooLong len, ?_⟩, fun h =>
    ⟨_, decodeRequest_b2byte_eq_ok.2 (decodeFlagSeq_ok h), by simp, fun k hk => ?_⟩⟩
  · exact congrArg (Except.map Instr.b2byte) (decodeFlagSeq_error h)
  · rw [List.getD_eq_getElem _ _ (by simpa using hk), List.getElem_map, List.getElem_range, BitVec.getLsbD_append]

/-- Settles O4: the formats of fixed operands compute; ENCCOL's by `decodeRequest_enccol`. -/
theorem operandsInFormatOrder : Obligations.OperandsInFormatOrder := by
  refine ⟨fun _ => rfl, fun _ _ _ _ _ _ _ _ _ _ _ _ _ hr hg hb => ?_, fun _ _ _ _ => rfl,
    fun lo hi => ⟨hi ++ lo, rfl, toNat_append_bytes lo hi⟩⟩
  exact decodeRequest_enccol (decodeRequest_b2byte_eq_ok.1 hr) (decodeRequest_b2byte_eq_ok.1 hg)
    (decodeRequest_b2byte_eq_ok.1 hb)

/-- Settles O6: closed words, evaluated. -/
theorem sampleWordsDecode : Obligations.SampleWordsDecode := by
  unfold Obligations.SampleWordsDecode
  decide

/-- Settles O8: an idle step takes the request from the port and serves it. -/
theorem stepRunsDecodedRequest : Obligations.StepRunsDecodedRequest := by
  intro s bs rest i hb hi hd
  simp [step_idle hb, idleStep, hi, serveRequest, hd]

end Sys2Proof.Proofs

/-! The response port: the bytes of a response, and how many responses a request gets (30_encoding.md R76, R85). -/

namespace Sys2Proof.Proofs

open Sys2Proof.Machine Sys2Proof.Laws

/-! Eight flags in a byte (R85). -/

/-- Setting the bits of a list of positions whose flag is set sets exactly those. -/
theorem getLsbD_setFold (f : Flags8) (ks : List (Fin 8)) (b : Byte) (k : Fin 8) :
    (ks.foldl (fun b i => if f.get i then setBit i.val b else b) b).getLsbD k.val =
      (b.getLsbD k.val || (decide (k ∈ ks) && f.get k)) := by
  induction ks generalizing b with
  | nil => simp
  | cons i ks ih =>
    rw [List.foldl_cons, ih]
    by_cases hf : f.get i = true
    · rw [if_pos hf, getLsbD_setBit i.val k.val b k.isLt]
      by_cases hki : k = i
      · subst hki; simp [hf]
      · simp [hki, Fin.val_inj]
    · rw [if_neg hf]
      by_cases hki : k = i
      · subst hki; simp [hf]
      · simp [hki]

theorem getLsbD_flagsByte (f : Flags8) (k : Fin 8) : (flagsByte f).getLsbD k.val = f.get k := by
  refine (getLsbD_setFold f (List.finRange 8) 0#8 k).trans ?_
  simp

/-! A decoded grid in sixteen bytes (R85, R134). -/

theorem extractLsb'_append_first {n : Nat} (hi : BitVec n) (lo : BitVec 2) :
    (hi ++ lo).extractLsb' (2 * 0) 2 = lo := by
  ext j hj
  simp [BitVec.getLsbD_append, hj]

theorem extractLsb'_append_succ {n : Nat} (hi : BitVec n) (lo : BitVec 2) (k : Nat) :
    (hi ++ lo).extractLsb' (2 * (k + 1)) 2 = hi.extractLsb' (2 * k) 2 := by
  ext j hj
  have h : 2 * (k + 1) + j = 2 * k + j + 2 := by omega
  simp [BitVec.getLsbD_append, h]

/-- R85: bits `2c+1:2c` of a row's word are the code of its cell at column `c`; the columns below it are dropped one by
one. -/
theorem rowWord_extractLsb' (row : Vector Tri 8) (c : Fin 8) :
    (rowWord row).extractLsb' (2 * c.val) 2 = Tri.code (row.get c) := by
  fin_cases c
  all_goals repeat refine (extractLsb'_append_succ _ _ _).trans ?_
  iterate 7 exact extractLsb'_append_first _ _
  exact BitVec.extractLsb'_eq_self

theorem gridBytes_length (g : TriGrid) : (gridBytes g).length = 16 := by
  simp [gridBytes, littleEndian, List.length_flatMap]

/-- Row `r` is bytes `2r` and `2r + 1` of the rows' bytes, low byte first. -/
theorem flatMap_littleEndian_row (rows : List (Vector Tri 8)) (r : Nat) (hr : r < rows.length) :
    (rows.flatMap fun row => littleEndian (rowWord row)).getD (2 * r + 1) 0#8 ++
      (rows.flatMap fun row => littleEndian (rowWord row)).getD (2 * r) 0#8 = rowWord rows[r] := by
  induction rows generalizing r with
  | nil => cases hr
  | cons row rows ih =>
    cases r with
    | zero => exact append_bytes (rowWord row)
    | succ r => exact ih r (Nat.lt_of_succ_lt_succ hr)

theorem gridBytes_row (g : TriGrid) (r : Fin 8) :
    (gridBytes g).getD (2 * r.val + 1) 0#8 ++ (gridBytes g).getD (2 * r.val) 0#8 = rowWord (g.get r) :=
  flatMap_littleEndian_row g.toList r.val (by simp)

/-- A grid that stands at byte `n` of the result, read there cell by cell. -/
theorem gridBytes_cell {n : Nat} {l pre post : List Byte} {g : TriGrid} (hl : l = pre ++ (gridBytes g ++ post))
    (hn : pre.length = n) (r c : Fin 8) :
    (l.getD (n + 2 * r.val + 1) 0#8 ++ l.getD (n + 2 * r.val) 0#8).extractLsb' (2 * c.val) 2 =
      Tri.code ((g.get r).get c) := by
  have hget (k : Nat) (hk : k < 16) : l.getD (n + k) 0#8 = (gridBytes g).getD k 0#8 := by
    rw [hl, List.getD_append_right _ _ _ _ (by omega), hn, Nat.add_sub_cancel_left,
      List.getD_append _ _ _ _ (by rwa [gridBytes_length])]
  rw [Nat.add_assoc, hget _ (by omega), hget _ (by omega), gridBytes_row, rowWord_extractLsb']

/-- R85: red at byte 0 of the result, green at byte 16, blue at byte 32. -/
theorem gridBytes_place {red green blue : TriGrid} {x : Nat × TriGrid}
    (hx : x ∈ [(0, red), (16, green), (32, blue)]) :
    ∃ pre post, gridBytes red ++ gridBytes green ++ gridBytes blue = pre ++ (gridBytes x.2 ++ post) ∧
      pre.length = x.1 := by
  simp only [List.mem_cons, List.not_mem_nil, or_false] at hx
  obtain rfl | rfl | rfl := hx
  · exact ⟨[], gridBytes green ++ gridBytes blue, List.append_assoc .., rfl⟩
  · exact ⟨gridBytes red, gridBytes blue, List.append_assoc .., gridBytes_length red⟩
  · exact ⟨gridBytes red ++ gridBytes green, [], by rw [List.append_nil], by simp [gridBytes_length]⟩

/-- Settles O7: flags by `getLsbD_flagsByte`, each of the three grids by `gridBytes_cell` at its place. -/
theorem responseBytesLayout : Obligations.ResponseBytesLayout := by
  refine ⟨fun _ => rfl, fun _ => rfl, fun _ => rfl, fun _ => rfl, rfl, fun _ => rfl, fun _ => rfl,
    fun f => ⟨flagsByte f, rfl, getLsbD_flagsByte f⟩, fun _ => rfl, fun red green blue =>
    ⟨gridBytes red ++ gridBytes green ++ gridBytes blue, rfl, by simp [gridBytes_length], fun r c x hx => ?_⟩⟩
  obtain ⟨pre, post, hl, hn⟩ := gridBytes_place hx
  rw [gridBytes_cell hl hn]
  cases (x.2.get r).get c <;> rfl

/-! One response a request (R76). -/

/-- R76: from `s` to `t` the request has ended with one response, or its DRAW is in progress and none was presented. -/
def answersOnce (s t : State) : Prop :=
  (t.seq.busy = false ∧ ∃ r, t.responses = s.responses ++ [r]) ∨ (t.seq.busy = true ∧ t.responses = s.responses)

theorem nextColumn_busy (s : State) : (nextColumn s).seq.busy = s.seq.busy := by
  unfold nextColumn
  split <;> rfl

theorem advance_answersOnce {s : State} (hb : s.seq.busy = true) : answersOnce s (advance s) := by
  cases hm : sequencerMove s with
  | none => rw [advance_wait hm]; exact .inr ⟨hb, rfl⟩
  | some t =>
    obtain ⟨u, hu, rfl⟩ := sequencerMove_eq_some.1 hm
    simp only [advance_move hm, answersOnce, seek_busy, seek_responses]
    obtain ⟨-, rfl⟩ | ⟨_, -, -, rfl⟩ | ⟨_, -, -, -, rfl⟩ | ⟨_, -, -, -, rfl⟩ | ⟨-, rfl⟩ | ⟨_, -, -, rfl⟩ |
      ⟨_, -, -, rfl⟩ | ⟨_, _, -, -, rfl⟩ | ⟨_, _, -, -, rfl⟩ | ⟨-, rfl⟩ | ⟨_, -, rfl⟩ := eventMove_cases hu
    · exact .inr ⟨hb, rfl⟩
    · exact .inr ⟨by dsimp only; split <;> exact hb, rfl⟩
    · exact .inr ⟨hb, rfl⟩
    · exact .inl ⟨rfl, _, rfl⟩
    · exact .inl ⟨rfl, _, rfl⟩
    iterate 4 exact .inr ⟨hb, rfl⟩
    · exact .inr ⟨(nextColumn_busy s).trans hb, rfl⟩
    · exact .inl ⟨rfl, _, rfl⟩

/-- Settles O39: what a request does by `exec_next`; a DRAW's events, from its own step on, by `advance_answersOnce`. -/
theorem oneResponsePerRequest : Obligations.OneResponsePerRequest := by
  refine ⟨fun i s t hi h => ?_, fun s t hb h => step_next_of_busy hb h ▸ advance_answersOnce hb⟩
  obtain ⟨-, hb, r, rfl⟩ | ⟨_, _, _, _, -, hb, rfl⟩ | ⟨n, -, -, rfl⟩ | ⟨_, rfl, -, -, -⟩ := exec_next h
  · exact .inl ⟨hb, r, rfl⟩
  · exact .inl ⟨hb, _, rfl⟩
  · exact advance_answersOnce (s := beginDraw n s) rfl
  · cases hi

end Sys2Proof.Proofs

/-! Unit 1, the bit operations: single bits of a byte, and a byte against eight flags (40_bitops.md R100 to R107). -/

namespace Sys2Proof.Proofs

open Sys2Proof.Machine Sys2Proof.Laws

/-! The single-bit operations, bit by bit (R105). -/

theorem testBit_setBit {i k : Nat} (v : Byte) (hk : k < 8) :
    testBit k (setBit i v) = (testBit k v || decide (k = i)) :=
  getLsbD_setBit i k v hk

theorem testBit_clearBit {i k : Nat} (v : Byte) (hk : k < 8) :
    testBit k (clearBit i v) = (testBit k v && !decide (k = i)) :=
  getLsbD_clearBit i k v hk

/-- Two bytes are equal when every test of a bit tells the same. -/
theorem byte_eq_of_testBit {u v : Byte} (h : ∀ k, k < 8 → testBit k u = testBit k v) : u = v :=
  BitVec.eq_of_getLsbD_eq h

theorem setBit_clearBit_same (i : Nat) (v : Byte) : setBit i (clearBit i v) = setBit i v :=
  byte_eq_of_testBit fun k hk => by
    rw [testBit_setBit _ hk, testBit_clearBit _ hk, testBit_setBit _ hk]
    by_cases hki : k = i <;> simp [hki]

theorem clearBit_setBit_same (i : Nat) (v : Byte) : clearBit i (setBit i v) = clearBit i v :=
  byte_eq_of_testBit fun k hk => by
    rw [testBit_clearBit _ hk, testBit_setBit _ hk, testBit_clearBit _ hk]
    by_cases hki : k = i <;> simp [hki]

theorem setBit_comm (i j : Nat) (v : Byte) : setBit i (setBit j v) = setBit j (setBit i v) :=
  byte_eq_of_testBit fun k hk => by
    simp only [testBit_setBit _ hk, Bool.or_right_comm]

theorem clearBit_comm (i j : Nat) (v : Byte) : clearBit i (clearBit j v) = clearBit j (clearBit i v) :=
  byte_eq_of_testBit fun k hk => by
    simp only [testBit_clearBit _ hk, Bool.and_right_comm]

/-- Setting one bit and clearing another commute: no bit is touched by both. -/
theorem setBit_clearBit_comm {i j : Nat} (hji : j ≠ i) (v : Byte) :
    setBit i (clearBit j v) = clearBit j (setBit i v) :=
  byte_eq_of_testBit fun k hk => by
    simp only [testBit_setBit _ hk, testBit_clearBit _ hk]
    by_cases hki : k = i <;> simp [hki, hji.symm]

/-- Settles O14: what a test sees by `testBit_setBit` and `testBit_clearBit`, the pair laws and commutations by their own
lemmas. -/
theorem singleBitLaws : Obligations.SingleBitLaws := by
  intro v i j hi hj
  refine ⟨?_, ?_, setBit_clearBit_same i v, clearBit_setBit_same i v, fun hji =>
    ⟨?_, ?_, setBit_comm i j v, clearBit_comm i j v, setBit_clearBit_comm hji v⟩⟩
  · simp [testBit_setBit v hi]
  · simp [testBit_clearBit v hi]
  · simp [testBit_setBit v hj, hji]
  · simp [testBit_clearBit v hj, hji]

/-! A byte and eight flags (R103, R104, R107). -/

theorem bitsToByte_ok {f : FlagSeq} (h : f.length = 8) : bitsToByte f = .ok (packFlags f) :=
  if_neg (not_not.2 h)

theorem bitsToByte_error {f : FlagSeq} (h : f.length ≠ 8) : bitsToByte f = .error .shape :=
  if_pos h

theorem toList_getD (f : Flags8) (k : Fin 8) : f.toList.getD k.val false = f.get k := by
  simp [List.getD_eq_getElem?_getD, Vector.get]

/-- R107: each conversion complements every bit, so the two together give it back. -/
theorem byteToBits_packFlags (f : Flags8) : byteToBits (packFlags f.toList) = f := by
  refine Vector.ext fun k hk => ?_
  calc (byteToBits (packFlags f.toList))[k] = !(packFlags f.toList).getLsbD k := byteToBits_get _ ⟨k, hk⟩
    _ = f.toList.getD k false := by rw [getLsbD_packFlags _ k hk, Bool.not_not]
    _ = f[k] := toList_getD f ⟨k, hk⟩

theorem packFlags_byteToBits (v : Byte) : packFlags (byteToBits v).toList = v :=
  byte_eq_of_testBit fun k hk =>
    calc (packFlags (byteToBits v).toList).getLsbD k = !(byteToBits v).toList.getD k false := getLsbD_packFlags _ k hk
      _ = !(byteToBits v).get ⟨k, hk⟩ := congrArg _ (toList_getD (byteToBits v) ⟨k, hk⟩)
      _ = v.getLsbD k := by rw [byteToBits_get, Bool.not_not]

/-- Settles O17: eight flags pass the length check; then `byteToBits_packFlags` and `packFlags_byteToBits`. -/
theorem flagConversionsRoundTrip : Obligations.FlagConversionsRoundTrip := by
  refine ⟨fun f => ⟨packFlags f.toList, bitsToByte_ok f.length_toList, byteToBits_packFlags f⟩, fun v => ?_⟩
  rw [bitsToByte_ok (byteToBits v).length_toList, packFlags_byteToBits]

/-! The operations on an idle block (R100 to R104). -/

/-- R100 to R102, R191: an operation on an indexed bit answers its result for an index in 0..7 and `INDEX_RANGE` for any
other, and changes nothing but the response. -/
theorem accept_checkIndex {s : State} (hb : s.seq.busy = false) (idx : Byte) (f : Nat → Result) :
    accept s (conclude ((checkIndex idx).map f)) = .next { s with responses := s.responses ++
      [if idx.toNat ≤ 7 then ⟨.ok, f idx.toNat⟩ else ⟨.indexRange, .none⟩] } := by
  rw [accept_idle hb]
  by_cases h : idx.toNat ≤ 7
  · rw [checkIndex_ok h, if_pos h]; rfl
  · rw [checkIndex_error (not_le.1 h), if_neg h]; rfl

/-- Settles O11: format IV computes; the result by `accept_checkIndex`. -/
theorem setbitResult : Obligations.SetbitResult :=
  fun idx val _ hb => ⟨rfl, accept_checkIndex hb idx fun i => .byte (setBit i val)⟩

/-- Settles O12: as for SETBIT, with `clearBit`. -/
theorem clrbitResult : Obligations.ClrbitResult :=
  fun idx val _ hb => ⟨rfl, accept_checkIndex hb idx fun i => .byte (clearBit i val)⟩

/-- Settles O13: as for SETBIT, with `testBit`. -/
theorem tstbitResult : Obligations.TstbitResult :=
  fun idx val _ hb => ⟨rfl, accept_checkIndex hb idx fun i => .flag (testBit i val)⟩

theorem exec_b2byte_idle {f : FlagSeq} {s : State} (hb : s.seq.busy = false) :
    exec (.b2byte f) s = .next (conclude ((bitsToByte f).map .byte) s) :=
  accept_idle hb _

/-- Settles O15: the encoding is read back by `decodeFlagSeq_encode`; the byte is `packFlags f`, by `getLsbD_packFlags`. -/
theorem b2byteResult : Obligations.B2byteResult := by
  intro f s hb
  rw [exec_b2byte_idle hb]
  refine ⟨fun hlen => decodeRequest_b2byte_eq_ok.2 (decodeFlagSeq_encode (wellFormed_flagSeq_iff.2 hlen)),
    fun hlen => ⟨packFlags f, getLsbD_packFlags f, ?_⟩, fun hlen => ?_⟩
  · rw [bitsToByte_ok hlen]; rfl
  · rw [bitsToByte_error hlen]; rfl

/-- Settles O16: the flags are `byteToBits val`, by `byteToBits_get`. -/
theorem byte2bResult : Obligations.Byte2bResult :=
  fun val _ hb => ⟨rfl, byteToBits val, byteToBits_get val, accept_idle hb _⟩

end Sys2Proof.Proofs

/-! Units 2 and 3, the frame codec: a column into a packet, and any packet into three decoded grids (41_frame_codec.md
R130 to R139). -/

namespace Sys2Proof.Proofs

open Sys2Proof.Machine Sys2Proof.Laws

/-! One-hot bytes and the active column (R72, R131, R133). -/

theorem popcount_bitMask {c : Nat} (hc : c < 8) : popcount (bitMask c) = 1 := by
  have h : ∀ c : Fin 8, popcount (bitMask c.val) = 1 := by decide
  exact h ⟨c, hc⟩

/-- A byte has one 1 bit exactly when it is the mask of a legal index. -/
theorem popcount_eq_one_iff {v : Byte} : popcount v = 1 ↔ ∃ c, c < 8 ∧ v = bitMask c := by
  refine ⟨fun h => ?_, fun ⟨c, hc, hv⟩ => hv ▸ popcount_bitMask hc⟩
  obtain ⟨c, hset⟩ := List.length_eq_one_iff.1 h
  have hbit (k : Nat) : (k < 8 ∧ v.getLsbD k = true) ↔ k = c := by
    simpa using congrArg (k ∈ ·) hset
  refine ⟨c, ((hbit c).2 rfl).1, byte_eq_of_testBit fun k hk => ?_⟩
  calc v.getLsbD k = decide (k = c) := by rw [Bool.eq_iff_iff, decide_eq_true_iff, ← hbit k, and_iff_right hk]
    _ = (bitMask c).getLsbD k := (getLsbD_bitMask c k hk).symm

theorem activeCol_bitMask {c : Nat} (hc : c < 8) : activeCol (bitMask c) = some c := by
  have h : ∀ c : Fin 8, activeCol (bitMask c.val) = some c.val := by decide
  exact h ⟨c, hc⟩

theorem activeCol_eq_some {cb : Byte} {c : Nat} : activeCol cb = some c ↔ c < 8 ∧ cb = bitMask c := by
  refine ⟨fun h => ?_, fun ⟨hc, hcb⟩ => hcb ▸ activeCol_bitMask hc⟩
  have hpop : popcount cb = 1 := by
    by_contra hne
    simp [activeCol, hne] at h
  obtain ⟨d, hd, rfl⟩ := popcount_eq_one_iff.1 hpop
  rw [activeCol_bitMask hd] at h
  cases h
  exact ⟨hd, rfl⟩

/-- Settles O20: `activeCol_eq_some`. -/
theorem activeColumnOfOneHot : Obligations.ActiveColumnOfOneHot :=
  fun _ _ => activeCol_eq_some

/-! The encoder (R130, R131, R196). -/

theorem encodeColumn_ok {red green blue : FlagSeq} {col : Byte} (hr : red.length = 8) (hg : green.length = 8)
    (hb : blue.length = 8) (hc : col.toNat ≤ 7) :
    encodeColumn red green blue col =
      .ok ⟨packFlags red, packFlags blue, packFlags green, bitMask col.toNat⟩ := by
  simp [encodeColumn, bitsToByte_ok hr, bitsToByte_ok hg, bitsToByte_ok hb, checkIndex_ok hc, setBit, bind, Except.bind]

/-- R196: the conversions come before the column, so a wrong length is reported whatever the column. -/
theorem encodeColumn_shape {red green blue : FlagSeq} {col : Byte}
    (h : red.length ≠ 8 ∨ green.length ≠ 8 ∨ blue.length ≠ 8) : encodeColumn red green blue col = .error .shape := by
  by_cases hr : red.length = 8
  · by_cases hg : green.length = 8
    · have hb : blue.length ≠ 8 := by simpa [hr, hg] using h
      simp [encodeColumn, bitsToByte_ok hr, bitsToByte_ok hg, bitsToByte_error hb, bind, Except.bind]
    · simp [encodeColumn, bitsToByte_ok hr, bitsToByte_error hg, bind, Except.bind]
  · simp [encodeColumn, bitsToByte_error hr, bind, Except.bind]

theorem encodeColumn_indexRange {red green blue : FlagSeq} {col : Byte} (hr : red.length = 8) (hg : green.length = 8)
    (hb : blue.length = 8) (hc : 7 < col.toNat) : encodeColumn red green blue col = .error .indexRange := by
  simp [encodeColumn, bitsToByte_ok hr, bitsToByte_ok hg, bitsToByte_ok hb, checkIndex_error hc, bind, Except.bind]

/-- R131: the column byte of a result is the mask of the column, which is in 0..7. -/
theorem encodeColumn_column {red green blue : FlagSeq} {col : Byte} {p : Packet}
    (h : encodeColumn red green blue col = .ok p) : col.toNat < 8 ∧ p.p3 = bitMask col.toNat := by
  simp only [encodeColumn, except_bind_eq_ok] at h
  obtain ⟨_, -, _, -, _, -, c, hc, hp⟩ := h
  cases hp
  rcases Nat.lt_or_ge 7 col.toNat with hlt | hle
  · rw [checkIndex_error hlt] at hc
    cases hc
  · rw [checkIndex_ok hle] at hc
    cases hc
    exact ⟨Nat.lt_succ_of_le hle, BitVec.zero_or⟩

theorem exec_enccol_idle {red green blue : FlagSeq} {col : Byte} {s : State} (hb : s.seq.busy = false) :
    exec (.enccol red green blue col) s = .next (conclude ((encodeColumn red green blue col).map .packet) s) :=
  accept_idle hb _

/-- Settles O18: the encoding by `decodeRequest_enccol`; the three outcomes of the encoder each by its lemma, the colour
bytes of a packet by `getLsbD_packFlags`. -/
theorem enccolResult : Obligations.EnccolResult := by
  intro red green blue col s hidle
  rw [exec_enccol_idle hidle]
  refine ⟨fun ⟨hr, hg, hb⟩ => ?_, fun ⟨hr, hg, hb, hc⟩ => ?_, fun h => ?_, fun ⟨hr, hg, hb, hc⟩ => ?_⟩
  · exact decodeRequest_enccol (decodeFlagSeq_encode (wellFormed_flagSeq_iff.2 hr))
      (decodeFlagSeq_encode (wellFormed_flagSeq_iff.2 hg)) (decodeFlagSeq_encode (wellFormed_flagSeq_iff.2 hb))
  · refine ⟨⟨packFlags red, packFlags blue, packFlags green, bitMask col.toNat⟩, fun k hk =>
      ⟨getLsbD_packFlags red k hk, getLsbD_packFlags blue k hk, getLsbD_packFlags green k hk⟩, rfl, ?_⟩
    rw [encodeColumn_ok hr hg hb hc]; rfl
  · rw [encodeColumn_shape h]; rfl
  · rw [encodeColumn_indexRange hr hg hb hc]; rfl

/-- Settles O19: `encodeColumn_column`, and a mask has one bit. -/
theorem encodedColumnByteIsOneHot : Obligations.EncodedColumnByteIsOneHot := by
  intro red green blue col p h
  obtain ⟨hc, hp⟩ := encodeColumn_column h
  exact ⟨hc, hp, hp ▸ popcount_bitMask hc⟩

/-! The decoder (R132, R139). -/

/-- R132: decoded flag `k` lands at row `k` of the active column; every other cell is `Unknown`. -/
theorem decodedGrid_get (active : Option Nat) (colour : Byte) (r c : Fin 8) :
    ((decodedGrid active colour).get r).get c =
      if active = some c.val then (if colour.getLsbD r.val then .unlit else .lit) else .unknown := by
  rw [decodedGrid, Vector.get_ofFn, Vector.get_ofFn, byteToBits_get]
  cases colour.getLsbD r.val <;> rfl

/-- R133, R139: each decoded grid has its colour byte in the column whose mask the column byte is. -/
theorem decodedGrid_activeCol_get (cb colour : Byte) (r c : Fin 8) :
    ((decodedGrid (activeCol cb) colour).get r).get c =
      if cb = bitMask c.val then (if colour.getLsbD r.val then .unlit else .lit) else .unknown := by
  simp only [decodedGrid_get, activeCol_eq_some, c.isLt, true_and]

/-- Settles O21: format PK computes; each cell by `decodedGrid_activeCol_get`. -/
theorem decpktResult : Obligations.DecpktResult := by
  intro p s hb
  refine ⟨rfl, _, _, _, accept_idle hb _, fun r c x hx => ?_⟩
  simp only [List.mem_cons, List.not_mem_nil, or_false] at hx
  obtain rfl | rfl | rfl := hx
  iterate 3 exact decodedGrid_activeCol_get p.p3 _ r c

/-! The two together (R135). -/

theorem bitMask_inj {i j : Nat} (hi : i < 8) (hj : j < 8) : bitMask i = bitMask j ↔ i = j := by
  refine ⟨fun h => ?_, congrArg bitMask⟩
  have hact : some i = some j := by rw [← activeCol_bitMask hi, h, activeCol_bitMask hj]
  exact Option.some.inj hact

/-- R130: eight flags for each channel and a column in 0..7 always give a packet. -/
theorem encodeColumn_flags (red green blue : Flags8) (c : Fin 8) :
    encodeColumn red.toList green.toList blue.toList (BitVec.ofNat 8 c.val) =
      .ok ⟨packFlags red.toList, packFlags blue.toList, packFlags green.toList, bitMask c.val⟩ := by
  have hc : (BitVec.ofNat 8 c.val).toNat = c.val := by rw [BitVec.toNat_ofNat, Nat.mod_eq_of_lt (by omega)]
  rw [encodeColumn_ok red.length_toList green.length_toList blue.length_toList (by omega), hc]

/-- Decoding packed flags at a column gives them back in that column. -/
theorem decodedGrid_packFlags_get (f : Flags8) (c k c' : Fin 8) :
    ((decodedGrid (activeCol (bitMask c.val)) (packFlags f.toList)).get k).get c' =
      if c' = c then (if f.get k then .lit else .unlit) else .unknown := by
  rw [decodedGrid_activeCol_get, getLsbD_packFlags _ _ k.isLt, toList_getD]
  simp only [bitMask_inj c.isLt c'.isLt, Fin.val_inj, eq_comm (a := c)]
  cases f.get k <;> rfl

/-- The lit cells of the active column are the flags of the colour byte. -/
theorem decodedGrid_column (a : Fin 8) (colour : Byte) :
    ((decodedGrid (some a.val) colour).toList.map fun row => decide (row.get a = .lit)) =
      (byteToBits colour).toList := by
  refine List.ext_getElem (by simp) fun k hk _ => ?_
  have hk8 : k < 8 := by simpa using hk
  have hcell : ((decodedGrid (some a.val) colour)[k]).get a = if colour.getLsbD k then .unlit else .lit :=
    (decodedGrid_get _ colour ⟨k, hk8⟩ a).trans (if_pos rfl)
  have hflag : (byteToBits colour)[k] = !colour.getLsbD k := byteToBits_get colour ⟨k, hk8⟩
  simp only [List.getElem_map, Vector.getElem_toList, hcell, hflag]
  cases colour.getLsbD k <;> rfl

theorem decodedGrid_none (colour colour' : Byte) : decodedGrid none colour = decodedGrid none colour' := rfl

/-- R135: the active column of a decoded packet, encoded, is the packet. -/
theorem encodeColumn_decodedColumn {p : Packet} {a : Fin 8} (h : activeCol p.p3 = some a.val) :
    encodeColumn (byteToBits p.p0).toList (byteToBits p.p2).toList (byteToBits p.p1).toList (BitVec.ofNat 8 a.val) =
      .ok p := by
  obtain ⟨-, hmask⟩ := activeCol_eq_some.1 h
  rw [encodeColumn_flags, packFlags_byteToBits, packFlags_byteToBits, packFlags_byteToBits, ← hmask]

/-- Settles O22: a packet by `encodeColumn_flags` and its cells by `decodedGrid_packFlags_get`; a decoded column by
`encodeColumn_decodedColumn`; without an active column no colour byte is read, and an encoder result has one
(`encodeColumn_column`). -/
theorem codecRoundTrip : Obligations.CodecRoundTrip := by
  refine ⟨fun r g b c => ?_, fun p a rg gg bg ha hd => ?_, fun p p' h h' => ?_, fun p r g b col hnone henc => ?_⟩
  · refine ⟨_, _, _, _, encodeColumn_flags r g b c, rfl, fun k c' x hx => ?_⟩
    simp only [List.mem_cons, List.not_mem_nil, or_false] at hx
    obtain rfl | rfl | rfl := hx
    iterate 3 exact decodedGrid_packFlags_get _ c k c'
  · simp only [decodePacket, ha, Result.grids.injEq] at hd
    obtain ⟨rfl, rfl, rfl⟩ := hd
    simp only [decodedGrid_column]
    exact encodeColumn_decodedColumn ha
  · simp only [decodePacket, h, h', decodedGrid_none p.p0 p'.p0, decodedGrid_none p.p1 p'.p1,
      decodedGrid_none p.p2 p'.p2]
  · obtain ⟨hc, hp3⟩ := encodeColumn_column henc
    rw [hp3, activeCol_bitMask hc] at hnone
    cases hnone

/-! The codec as one of the pure operations (R136). -/

/-- Settles O23: `exec_pure`, whose response is the one `conclude` presents for the operation's outcome. -/
theorem pureOperationsDependOnOperandsAlone : Obligations.PureOperationsDependOnOperandsAlone :=
  fun _ => exec_pure

end Sys2Proof.Proofs

/-! The frame buffer: SETFRM's rows, and what mirroring does to the pixels and to the packets of a frame
(42_frame_buffer.md R150, R151). -/

namespace Sys2Proof.Proofs

open Sys2Proof.Machine Sys2Proof.Laws

/-! The rows SETFRM stores (R150). -/

theorem val_rev_row (r : Fin 8) : r.rev.val = 7 - r.val := by
  rw [Fin.val_rev]; omega

theorem sourceRow_val (mirror : Bool) (r : Fin 8) :
    (sourceRow mirror r).val = if mirror then 7 - r.val else r.val := by
  cases mirror with
  | false => rfl
  | true => exact val_rev_row r

/-- Settles O24: format FR by `decodeEncodeRoundTrip`; each row by `storedGrid_get`, its source by `sourceRow_val`. -/
theorem setfrmResult : Obligations.SetfrmResult := by
  intro mirror red green blue s hb
  refine ⟨decodeEncodeRoundTrip (.setfrm mirror red green blue) rfl, _, exec_setfrm_idle hb, fun r src hsrc => ?_⟩
  obtain rfl : src = sourceRow mirror r := Fin.ext (hsrc.trans (sourceRow_val mirror r).symm)
  exact ⟨storedGrid_get mirror red r, storedGrid_get mirror green r, storedGrid_get mirror blue r⟩

/-! The mirrored frame (R151). -/

theorem pixel_storedGrid_true (g : Grid) (k c : Fin 8) : pixel (storedGrid true g) k c = pixel g k.rev c :=
  congrArg (fun row : Byte => row.getLsbD c.val) (storedGrid_get true g k)

/-- A column's lit pixels change place within the column, so it stays lit or unlit. -/
theorem columnLit_mirrored (red green blue : Grid) (c : Fin 8) :
    columnLit ⟨storedGrid true red, storedGrid true green, storedGrid true blue⟩ c =
      columnLit ⟨red, green, blue⟩ c := by
  simp only [columnLit, pixel_storedGrid_true]
  exact decide_eq_decide.2 (Fin.revPerm.exists_congr fun _ => Iff.rfl)

/-- R103, R164: bit `k` of a channel's colour byte is 0 where the column's pixel in row `k` is lit. -/
theorem getLsbD_packFlags_slice (g : Grid) (k c : Fin 8) :
    (packFlags (slice g c.val)).getLsbD k.val = !pixel g k c := by
  rw [getLsbD_packFlags _ _ k.isLt, slice_getD, pixel]

theorem getLsbD_packFlags_slice_mirrored (g : Grid) (k c : Fin 8) :
    (packFlags (slice (storedGrid true g) c.val)).getLsbD k.val = (packFlags (slice g c.val)).getLsbD (7 - k.val) := by
  rw [← val_rev_row, getLsbD_packFlags_slice, getLsbD_packFlags_slice, pixel_storedGrid_true]

/-- Settles O25: the pixels by `pixel_storedGrid_true`, the columns sent by `columnLit_mirrored`, the colour bytes by
`getLsbD_packFlags_slice_mirrored`; the column byte is the mask of the column, whatever the frame. -/
theorem mirrorReversesColourBits : Obligations.MirrorReversesColourBits := by
  intro red green blue s t hb h
  rw [exec_setfrm_idle hb] at h
  cases h
  have hpixel (g : Grid) (r c : Fin 8) : pixel (storedGrid true g) r.rev c = pixel g r c := by
    rw [pixel_storedGrid_true, Fin.rev_rev]
  refine ⟨fun r c => ⟨hpixel red r c, hpixel green r c, hpixel blue r c⟩, ?_, fun c => ⟨rfl, fun k => ?_⟩⟩
  · exact List.filter_congr fun c _ => columnLit_mirrored red green blue c
  · exact ⟨getLsbD_packFlags_slice_mirrored red k c, getLsbD_packFlags_slice_mirrored blue k c,
      getLsbD_packFlags_slice_mirrored green k c⟩

end Sys2Proof.Proofs

/-! A column of the frame on its way to the bus: its packet, the skip rule, and the packet's transmission
(43_sequencer.md R164 to R166). -/

namespace Sys2Proof.Proofs

open Sys2Proof.Machine Sys2Proof.Laws

/-- Settles O27: the encoding is `columnPacket`, by `columnEncoding_eq`; its bits by `getLsbD_packFlags_slice`. -/
theorem columnPacketBits : Obligations.ColumnPacketBits := by
  intro fb c
  refine ⟨_, columnEncoding_eq fb c, rfl, fun k c' hc => ?_⟩
  rw [← hc]
  exact ⟨getLsbD_packFlags_slice fb.r k c', getLsbD_packFlags_slice fb.b k c', getLsbD_packFlags_slice fb.g k c'⟩

/-- R165: a channel's colour byte is 0xFF exactly when none of the column's pixels is lit in it. -/
theorem packFlags_slice_eq_unlit {g : Grid} {c : Fin 8} :
    packFlags (slice g c.val) = 0xFF#8 ↔ ∀ k, pixel g k c = false := by
  have hff : ∀ k : Fin 8, (0xFF#8).getLsbD k.val = true := by decide
  refine ⟨fun h k => ?_, fun h => byte_eq_of_testBit fun k hk => ?_⟩
  · rw [← Bool.not_eq_true', ← getLsbD_packFlags_slice, h, hff]
  · exact (getLsbD_packFlags_slice g ⟨k, hk⟩ c).trans (by rw [h, Bool.not_false]; exact (hff ⟨k, hk⟩).symm)

theorem skipped_eq_true {p : Packet} : skipped p = true ↔ p.p0 = 0xFF#8 ∧ p.p1 = 0xFF#8 ∧ p.p2 = 0xFF#8 :=
  decide_eq_true_iff

/-- R165: the skip test on the packed bytes tells the columns without a lit pixel. -/
theorem skipped_columnPacket (fb : FrameBuffer) (c : Fin 8) :
    skipped (columnPacket fb c.val) = !columnLit fb c := by
  rw [Bool.eq_iff_iff, skipped_eq_true]
  simp only [columnPacket, packFlags_slice_eq_unlit, columnLit, Bool.not_eq_true', decide_eq_false_iff_not, not_exists,
    not_or, Bool.not_eq_true]
  exact ⟨fun ⟨hr, hb, hg⟩ k => ⟨hr k, hg k, hb k⟩,
    fun h => ⟨fun k => (h k).1, fun k => (h k).2.2, fun k => (h k).2.1⟩⟩

/-- Settles O28: the skip test by `skipped_columnPacket`; the silent move at a column is `packColumn`. -/
theorem unlitColumnsAreSkipped : Obligations.UnlitColumnsAreSkipped := by
  intro s c _ hp hc
  have hmove : silentMove s = some (if columnLit s.fb c then goto (.transmit (columnPacket s.fb c.val)) s
      else nextColumn s) := by
    rw [silentMove, hp]
    simp only [packColumn_eq, ← hc, skipped_columnPacket]
    cases columnLit s.fb c <;> rfl
  refine ⟨?_, fun h => ?_, fun h => ?_⟩
  · rw [← Bool.not_eq_true', ← skipped_columnPacket, skipped_eq_true]
  · have h7 : s.seq.col = 7#3 ↔ c.val = 7 := by
      rw [hc]; exact ⟨fun e => congrArg BitVec.toNat e, fun e => BitVec.eq_of_toNat_eq e⟩
    rw [hmove, h]
    simp only [nextColumn, h7]
    by_cases hcv : c.val = 7 <;> simp [hcv]
  · rw [hmove, h]; rfl

/-- Settles O29: WIREPKT is the sequencer's move; the transport's answer by `transmit_ok` and `transmit_fail`. -/
theorem wirepktTransmits : Obligations.WirepktTransmits := by
  intro p s hb hp
  rw [exec_wirepkt_offered hb hp]
  refine ⟨fun rest ha => ?_, fun rest ha => ?_, fun ha => ?_⟩
  · rw [advance_move ((sequencerMove_transmit hp).trans (transmit_ok ha))]; rfl
  · rw [advance_move ((sequencerMove_transmit hp).trans (transmit_fail ha))]; rfl
  · rw [advance_wait ((sequencerMove_transmit hp).trans (ask_eq_none.2 ha))]

end Sys2Proof.Proofs

/-! What the bus discipline says of a trace (43_sequencer.md R165, R167, R168, R171; 60_exceptions.md R209). -/

namespace Sys2Proof.Proofs

open Sys2Proof.Machine Sys2Proof.Laws

/-- Everything the discipline allows: each event with the phase it comes in and the phase it leads to. -/
theorem busNext_cases {cfg : Cfg} {ph ph' : BusPhase} {e : Event} (h : busNext cfg ph e = some ph') :
    (ph = .closed ∧ e = .call (.busOpen cfg.busId cfg.deviceId) .ok ∧
      ph' = if cfg.speedEn then .speedDue else .ready) ∨
    (ph = .closed ∧ e = .call (.busOpen cfg.busId cfg.deviceId) .fail ∧
      ph' = if cfg.closeAfterFailedOpen then .failedOpen else .closed) ∨
    (ph = .speedDue ∧ ∃ a, e = .call (.busSetSpeed cfg.maxSpeedHz) a ∧
      ph' = match a with | .ok => .ready | .fail => .closeDue) ∨
    (ph = .ready ∧ ∃ p a, e = .call (.busWrite p) a ∧ columnSelectValid p.p3 = true ∧ skipped p = false ∧
      ph' = match a with | .ok => .delayDue | .fail => .closeDue) ∨
    (ph = .delayDue ∧ e = .delay cfg.tCol ∧ ph' = .ready) ∨
    ((ph = .failedOpen ∨ ph = .ready ∨ ph = .closeDue) ∧ e = .busClose ∧ ph' = .closed) := by
  unfold busNext at h
  split at h
  · split at h <;> rename_i hbd
    · obtain ⟨rfl, rfl⟩ := hbd
      split at h <;> cases h
      · exact .inl ⟨rfl, rfl, rfl⟩
      · exact .inr (.inl ⟨rfl, rfl, rfl⟩)
    · cases h
  · cases h; exact .inr (.inr (.inr (.inr (.inr ⟨.inl rfl, rfl, rfl⟩))))
  · split at h <;> rename_i hhz
    · subst hhz
      split at h <;> cases h
      · exact .inr (.inr (.inl ⟨rfl, _, rfl, rfl⟩))
      · exact .inr (.inr (.inl ⟨rfl, _, rfl, rfl⟩))
    · cases h
  · split at h <;> rename_i hp
    · split at h <;> cases h
      · exact .inr (.inr (.inr (.inl ⟨rfl, _, _, rfl, hp.1, hp.2, rfl⟩)))
      · exact .inr (.inr (.inr (.inl ⟨rfl, _, _, rfl, hp.1, hp.2, rfl⟩)))
    · cases h
  · cases h; exact .inr (.inr (.inr (.inr (.inr ⟨.inr (.inl rfl), rfl, rfl⟩))))
  · split at h <;> rename_i ht
    · subst ht; cases h
      exact .inr (.inr (.inr (.inr (.inl ⟨rfl, rfl, rfl⟩))))
    · cases h
  · cases h; exact .inr (.inr (.inr (.inr (.inr ⟨.inr (.inr rfl), rfl, rfl⟩))))
  · cases h

theorem busAfter_cons {cfg : Cfg} {ph ph' : BusPhase} {e : Event} {es : List Event} :
    busAfter cfg ph (e :: es) = some ph' ↔ ∃ ph₁, busNext cfg ph e = some ph₁ ∧ busAfter cfg ph₁ es = some ph' := by
  rw [busAfter]
  cases busNext cfg ph e <;> simp

/-- A trace that keeps the discipline keeps it up to any place in it, and from there on. -/
theorem busAfter_split {cfg : Cfg} {ph ph' : BusPhase} {pre post : List Event}
    (h : busAfter cfg ph (pre ++ post) = some ph') :
    ∃ ph₁, busAfter cfg ph pre = some ph₁ ∧ busAfter cfg ph₁ post = some ph' := by
  induction pre generalizing ph with
  | nil => exact ⟨ph, rfl, h⟩
  | cons e es ih =>
    obtain ⟨ph₁, hn, ha⟩ := busAfter_cons.1 h
    obtain ⟨ph₂, h₁, h₂⟩ := ih ha
    exact ⟨ph₂, busAfter_cons.2 ⟨ph₁, hn, h₁⟩, h₂⟩

/-! Packets (R165, R171). -/

theorem busNext_write {cfg : Cfg} {ph ph' : BusPhase} {p : Packet} {a : Answer}
    (h : busNext cfg ph (.call (.busWrite p) a) = some ph') :
    columnSelectValid p.p3 = true ∧ skipped p = false ∧ (a = .ok → ph' = .delayDue) := by
  obtain ⟨-, he, -⟩ | ⟨-, he, -⟩ | ⟨-, _, he, -⟩ | ⟨-, _, _, he, hv, hk, rfl⟩ | ⟨-, he, -⟩ | ⟨-, he, -⟩ :=
    busNext_cases h <;> cases he
  exact ⟨hv, hk, fun ha => by rw [ha]⟩

/-- Settles O51: the discipline checks each packet where it is sent (`busNext_write`). -/
theorem everyWriteIsOneHotAndLit : Obligations.EveryWriteIsOneHotAndLit := by
  intro s hinv p a hmem
  obtain ⟨pre, post, htr⟩ := List.append_of_mem hmem
  obtain ⟨_, -, hafter⟩ := busAfter_split (htr ▸ hinv.1)
  obtain ⟨_, hnext, -⟩ := busAfter_cons.1 hafter
  obtain ⟨hvalid, hlit, -⟩ := busNext_write hnext
  obtain ⟨c, hc⟩ := of_decide_eq_true hvalid
  exact ⟨popcount_eq_one_iff.2 ⟨c, c.isLt, hc⟩, ⟨c, hc⟩, of_decide_eq_false hlit⟩

/-! Delays (R167). -/

theorem busNext_delayDue {cfg : Cfg} {ph' : BusPhase} {e : Event} (h : busNext cfg .delayDue e = some ph') :
    e = .delay cfg.tCol := by
  obtain ⟨hp, -⟩ | ⟨hp, -⟩ | ⟨hp, -⟩ | ⟨hp, -⟩ | ⟨-, he, -⟩ | ⟨hp | hp | hp, -⟩ := busNext_cases h
  iterate 4 cases hp
  · exact he
  iterate 3 cases hp

theorem busNext_delay {cfg : Cfg} {ph ph' : BusPhase} {t : Nat} (h : busNext cfg ph (.delay t) = some ph') :
    ph = .delayDue := by
  obtain ⟨-, he, -⟩ | ⟨-, he, -⟩ | ⟨-, _, he, -⟩ | ⟨-, _, _, he, -⟩ | ⟨hp, -⟩ | ⟨-, he, -⟩ := busNext_cases h
  iterate 4 cases he
  · exact hp
  · cases he

/-- Only a write that was answered `ok` leads to the phase in which a delay is due. -/
theorem write_of_busNext_delayDue {cfg : Cfg} {ph : BusPhase} {e : Event} (h : busNext cfg ph e = some .delayDue) :
    ∃ p, e = .call (.busWrite p) .ok := by
  obtain ⟨-, -, hp⟩ | ⟨-, -, hp⟩ | ⟨-, a, -, hp⟩ | ⟨-, p, a, rfl, -, -, hp⟩ | ⟨-, -, hp⟩ | ⟨-, -, hp⟩ := busNext_cases h
  · split at hp <;> cases hp
  · split at hp <;> cases hp
  · cases a <;> cases hp
  · cases a
    · exact ⟨p, rfl⟩
    · cases hp
  · cases hp
  · cases hp

/-- Settles O53: after a good write a delay is due, and nothing else comes then; before a delay one was due. -/
theorem delayFollowsEveryGoodWrite : Obligations.DelayFollowsEveryGoodWrite := by
  rintro s ⟨hafter, -, -⟩
  refine ⟨fun pre post p e htr => ?_, fun pre post t e htr => ?_, fun t post htr => ?_⟩
  · obtain ⟨_, -, h⟩ := busAfter_split (htr ▸ hafter)
    obtain ⟨_, hwrite, h⟩ := busAfter_cons.1 h
    obtain ⟨_, hnext, -⟩ := busAfter_cons.1 h
    obtain rfl := (busNext_write hwrite).2.2 rfl
    exact busNext_delayDue hnext
  · obtain ⟨_, -, h⟩ := busAfter_split (htr ▸ hafter)
    obtain ⟨_, hnext, h⟩ := busAfter_cons.1 h
    obtain ⟨_, hdelay, -⟩ := busAfter_cons.1 h
    obtain rfl := busNext_delay hdelay
    exact write_of_busNext_delayDue hnext
  · obtain ⟨_, hdelay, -⟩ := busAfter_cons.1 (htr ▸ hafter)
    cases busNext_delay hdelay

/-! Opens and closes (R168, R34). -/

/-- The closes a phase still owes: one where an open was answered `ok`, or failed with a close due, none else. -/
def closesOwed : BusPhase → Nat
  | .closed => 0
  | .failedOpen => 1
  | .speedDue => 1
  | .ready => 1
  | .delayDue => 1
  | .closeDue => 1

/-- The opens of a trace that a close answers to. -/
def opensToClose (cfg : Cfg) (es : List Event) : Nat :=
  es.count (.call (.busOpen cfg.busId cfg.deviceId) .ok) +
    (if cfg.closeAfterFailedOpen then es.count (.call (.busOpen cfg.busId cfg.deviceId) .fail) else 0)

theorem opensToClose_cons (cfg : Cfg) (e : Event) (es : List Event) :
    opensToClose cfg (e :: es) = opensToClose cfg [e] + opensToClose cfg es := by
  unfold opensToClose
  rw [← List.singleton_append, List.count_append, List.count_append]
  split <;> omega

/-- An event the discipline allows closes what is owed, or opens what is owed then, or changes nothing owed. -/
theorem busNext_balance {cfg : Cfg} {ph ph' : BusPhase} {e : Event} (h : busNext cfg ph e = some ph') :
    List.count .busClose [e] + closesOwed ph' = closesOwed ph + opensToClose cfg [e] := by
  obtain ⟨rfl, rfl, rfl⟩ | ⟨rfl, rfl, rfl⟩ | ⟨rfl, a, rfl, rfl⟩ | ⟨rfl, p, a, rfl, -, -, rfl⟩ | ⟨rfl, rfl, rfl⟩ |
    ⟨rfl | rfl | rfl, rfl, rfl⟩ := busNext_cases h
  · cases h : cfg.speedEn <;> simp [opensToClose, closesOwed]
  · cases h : cfg.closeAfterFailedOpen <;> simp [opensToClose, closesOwed, h]
  · cases a <;> simp [opensToClose, closesOwed]
  · cases a <;> simp [opensToClose, closesOwed]
  all_goals simp [opensToClose, closesOwed]

theorem busAfter_balance {cfg : Cfg} {ph ph' : BusPhase} {es : List Event} (h : busAfter cfg ph es = some ph') :
    es.count .busClose + closesOwed ph' = closesOwed ph + opensToClose cfg es := by
  induction es generalizing ph with
  | nil => cases h; simp [opensToClose]
  | cons e es ih =>
    obtain ⟨ph₁, hnext, h⟩ := busAfter_cons.1 h
    have he := busNext_balance hnext
    have hes := ih h
    rw [opensToClose_cons, ← List.singleton_append, List.count_append]
    omega

/-- Settles O52: `busAfter_balance` from a closed bus to a closed bus. -/
theorem opensAndClosesBalance : Obligations.OpensAndClosesBalance := by
  intro s hinv hb
  obtain ⟨⟨hafter, hopen⟩, -⟩ := blockInv_iff.1 hinv
  rw [seqPhase_idle hb] at hafter hopen
  exact ⟨hopen, by simpa [closesOwed, opensToClose] using busAfter_balance hafter⟩

end Sys2Proof.Proofs

/-! The events a DRAW has still to emit, as a function of the sequencer's place (43_sequencer.md R160 to R168, R174). -/

namespace Sys2Proof.Proofs

open Sys2Proof.Machine Sys2Proof.Laws

/-! The events of a part of a DRAW, every answer `ok`. -/

/-- R174: the events of one iteration from column `c` on. -/
def sweepFrom (cfg : Cfg) (fb : FrameBuffer) (c : Nat) : List Event :=
  (((List.finRange 8).drop c).filter (columnLit fb)).flatMap fun c =>
    [.call (.busWrite (columnPacket fb c.val)) .ok, .delay cfg.tCol]

/-- R174: the events from the loop test on, with `k` iterations to come. -/
def sweepsFrom (cfg : Cfg) (fb : FrameBuffer) (k : Nat) : List Event :=
  (List.replicate k (sweepEvents cfg fb)).flatten ++ [.busClose]

/-- R174: the events that follow a `BusOpen` answered `ok`. -/
def openedEvents (cfg : Cfg) (fb : FrameBuffer) (n : Nat) : List Event :=
  (if cfg.speedEn then [.call (.busSetSpeed cfg.maxSpeedHz) .ok] else []) ++ sweepsFrom cfg fb n

theorem drawEvents_eq (cfg : Cfg) (fb : FrameBuffer) (n : Nat) :
    drawEvents cfg fb n = .call (.busOpen cfg.busId cfg.deviceId) .ok :: openedEvents cfg fb n := by
  simp [drawEvents, openedEvents, sweepsFrom]

theorem sweepFrom_zero (cfg : Cfg) (fb : FrameBuffer) : sweepFrom cfg fb 0 = sweepEvents cfg fb := rfl

theorem sweepFrom_eight (cfg : Cfg) (fb : FrameBuffer) : sweepFrom cfg fb 8 = [] := rfl

theorem drop_finRange (c : Fin 8) : (List.finRange 8).drop c.val = c :: (List.finRange 8).drop (c.val + 1) := by
  rw [List.drop_eq_getElem_cons (by simp), List.getElem_finRange]
  rfl

theorem sweepFrom_unlit {cfg : Cfg} {fb : FrameBuffer} {c : Fin 8} (h : columnLit fb c = false) :
    sweepFrom cfg fb c.val = sweepFrom cfg fb (c.val + 1) := by
  simp [sweepFrom, drop_finRange, h]

theorem sweepFrom_lit {cfg : Cfg} {fb : FrameBuffer} {c : Fin 8} (h : columnLit fb c = true) :
    sweepFrom cfg fb c.val =
      .call (.busWrite (columnPacket fb c.val)) .ok :: .delay cfg.tCol :: sweepFrom cfg fb (c.val + 1) := by
  simp [sweepFrom, drop_finRange, h]

theorem sweepsFrom_zero (cfg : Cfg) (fb : FrameBuffer) : sweepsFrom cfg fb 0 = [.busClose] := rfl

theorem sweepsFrom_succ (cfg : Cfg) (fb : FrameBuffer) (k : Nat) :
    sweepsFrom cfg fb (k + 1) = sweepEvents cfg fb ++ sweepsFrom cfg fb k := by
  simp [sweepsFrom, List.replicate_succ]

/-! The events still to come at a place. -/

/-- Inside an iteration, the events from column `c` on. -/
def columnsLeft (s : State) (c : Nat) : List Event :=
  sweepFrom s.cfg s.fb c ++ sweepsFrom s.cfg s.fb (s.seq.n.toNat - (s.seq.iter.toNat + 1))

/-- R160: the events a DRAW in progress has still to emit if every call is answered `ok`. -/
def eventsLeft (s : State) : List Event :=
  match s.seq.point with
  | .openBus => drawEvents s.cfg s.fb s.seq.n.toNat
  | .closeUnopened => [.busClose]
  | .setSpeed => .call (.busSetSpeed s.cfg.maxSpeedHz) .ok :: sweepsFrom s.cfg s.fb s.seq.n.toNat
  | .loop => sweepsFrom s.cfg s.fb (s.seq.n.toNat - s.seq.iter.toNat)
  | .column => columnsLeft s s.seq.col.toNat
  | .transmit p => .call (.busWrite p) .ok :: .delay s.cfg.tCol :: columnsLeft s (s.seq.col.toNat + 1)
  | .settle => .delay s.cfg.tCol :: columnsLeft s (s.seq.col.toNat + 1)
  | .close _ => [.busClose]

/-- R163: going on to the next column leaves the events of the columns and iterations behind this one. -/
theorem nextColumn_eventsLeft {s : State} (h : s.seq.iter.toNat < s.seq.n.toNat) :
    eventsLeft (nextColumn s) = columnsLeft s (s.seq.col.toNat + 1) := by
  have hn := s.seq.n.isLt
  have hc := s.seq.col.isLt
  unfold nextColumn
  split
  · rename_i h7
    have hi : (s.seq.iter + 1#16).toNat = s.seq.iter.toNat + 1 := by simp [BitVec.toNat_add]; omega
    have hcol : s.seq.col.toNat + 1 = 8 := by rw [h7]; rfl
    simp [eventsLeft, columnsLeft, hi, hcol, sweepFrom_eight]
  · rename_i h7
    have hn7 : s.seq.col.toNat ≠ 7 := fun e => h7 (BitVec.eq_of_toNat_eq e)
    have hcol : (s.seq.col + 1#3).toNat = s.seq.col.toNat + 1 := by simp [BitVec.toNat_add]; omega
    simp only [eventsLeft, columnsLeft, hcol]

/-- R163 to R165: a silent move leaves the events still to come. -/
theorem silentMove_eventsLeft {s t : State} (hb : sweepBounded s) (h : silentMove s = some t) :
    eventsLeft t = eventsLeft s := by
  have hskip := skipped_columnPacket s.fb ⟨s.seq.col.toNat, s.seq.col.isLt⟩
  obtain ⟨hp, hn, rfl⟩ | ⟨hp, hn, rfl⟩ | ⟨hp, hk, rfl⟩ | ⟨hp, hk, rfl⟩ := silentMove_cases h
  · simp [eventsLeft, hp, hn, sweepsFrom_zero]
  · have hlt : s.seq.iter.toNat < s.seq.n.toNat := lt_of_le_of_ne hb.1 fun e => hn (BitVec.eq_of_toNat_eq e)
    have hsucc : s.seq.n.toNat - s.seq.iter.toNat = s.seq.n.toNat - (s.seq.iter.toNat + 1) + 1 := by omega
    simp [eventsLeft, hp, hsucc, sweepsFrom_succ, columnsLeft, sweepFrom_zero]
  · have hunlit : columnLit s.fb ⟨s.seq.col.toNat, s.seq.col.isLt⟩ = false := by simpa [hk] using hskip
    rw [nextColumn_eventsLeft (hb.2 hp)]
    simp [eventsLeft, hp, columnsLeft, sweepFrom_unlit hunlit]
  · have hlit : columnLit s.fb ⟨s.seq.col.toNat, s.seq.col.isLt⟩ = true := by simpa [hk] using hskip
    simp [eventsLeft, hp, columnsLeft, sweepFrom_lit hlit]

/-- A state from which seeking lands, at the place of the next event. -/
def mayResume (s : State) : Prop := s.seq.point = .loop ∨ s.seq.point = .column → sweepBounded s

theorem seek_eventsLeft {s : State} (h : mayResume s) : eventsLeft (seek s) = eventsLeft s := by
  by_cases hp : s.seq.point = .loop ∨ s.seq.point = .column
  · refine (seek_induct (P := fun t => sweepBounded t ∧ eventsLeft t = eventsLeft s) (fun t u ht hm => ?_)
      ⟨h hp, rfl⟩).2
    exact ⟨(silentMove_progress ht.1 hm).1, (silentMove_eventsLeft ht.1 hm).trans ht.2⟩
  · rw [seek_of_event (not_or.1 hp)]

/-! A DRAW past its open that has met no `fail`. -/

/-- R34, R169: the bus is open and no call has failed. -/
def underway (s : State) : Prop :=
  s.busOpen = true ∧ (seqPhase s = .speedDue ∨ seqPhase s = .ready ∨ seqPhase s = .delayDue)

/-- A DRAW before its open, or underway, its registers fitting its place. -/
def onCourse (s : State) : Prop :=
  seqConsistent s ∧ ((s.seq.busy = true ∧ s.seq.point = .openBus) ∨ underway s)

theorem underway.busy {s : State} (h : underway s) : s.seq.busy = true := by
  cases hb : s.seq.busy with
  | true => rfl
  | false => simp [underway, seqPhase_idle hb] at h

theorem onCourse.busy {s : State} (h : onCourse s) : s.seq.busy = true :=
  h.2.elim And.left underway.busy

theorem seek_underway {s : State} (h : underway s) : underway (seek s) := by
  simpa [underway] using h

/-- The places of a DRAW underway, between two steps. -/
theorem underway.point_cases {s : State} (h : underway s) (hc : seqConsistent s) :
    s.seq.point = .setSpeed ∨ (∃ p, s.seq.point = .transmit p) ∨ s.seq.point = .settle ∨ s.seq.point = .close .ok := by
  have hb := h.busy
  obtain ⟨-, hphase⟩ := h
  cases hp : s.seq.point with
  | setSpeed => exact .inl rfl
  | transmit p => exact .inr (.inl ⟨p, rfl⟩)
  | settle => exact .inr (.inr (.inl rfl))
  | close st =>
    cases st with
    | ok => exact .inr (.inr (.inr rfl))
    | _ => simp [seqPhase, hb, hp] at hphase
  | loop => exact absurd hp (seqConsistent_event hc).1
  | column => exact absurd hp (seqConsistent_event hc).2
  | openBus => simp [seqPhase, hb, hp] at hphase
  | closeUnopened => simp [seqPhase, hb, hp] at hphase

/-! One event of such a DRAW, answered `ok`. -/

/-- The transport is called by an event. -/
def isCall : Event → Bool
  | .call _ _ => true
  | .delay _ => false
  | .busClose => false

/-- From `s` to `t` the events `es` were emitted and the answers `more` are left; only the sequencer and `BUS.open`
changed besides. -/
def emitted (s : State) (es : List Event) (more : List Answer) (t : State) : Prop :=
  t = { s with trace := s.trace ++ es, answers := more, busOpen := t.busOpen, seq := t.seq }

theorem emitted_nil (s : State) : emitted s [] s.answers s := by simp [emitted]

theorem emitted.trans {s t u : State} {es es' : List Event} {more more' : List Answer} (h : emitted s es more t)
    (h' : emitted t es' more' u) : emitted s (es ++ es') more' u := by
  rw [emitted] at h h' ⊢
  rw [h'.trans (by rw [h]), List.append_assoc]

theorem emitted_seek {s t : State} {es : List Event} {more : List Answer} (h : emitted s es more t) :
    emitted s es more (seek t) := by
  rw [emitted] at h ⊢
  rw [(seek_frame t).1.trans (by rw [h])]

theorem settle_eq (s : State) :
    settle s = { s with trace := s.trace ++ [.delay s.cfg.tCol], seq := (nextColumn s).seq } := by
  unfold settle nextColumn emit
  split <;> rfl

theorem eventMove_openBus {s : State} (hp : s.seq.point = .openBus) : eventMove s = openBus s := by
  simp [eventMove, hp]

theorem eventMove_setSpeed {s : State} (hp : s.seq.point = .setSpeed) : eventMove s = setSpeed s := by
  simp [eventMove, hp]

theorem eventMove_transmit {s : State} {p : Packet} (hp : s.seq.point = .transmit p) : eventMove s = transmit p s := by
  simp [eventMove, hp]

theorem eventMove_settle {s : State} (hp : s.seq.point = .settle) : eventMove s = some (settle s) := by
  simp [eventMove, hp]

theorem eventMove_close {s : State} {st : Status} (hp : s.seq.point = .close st) :
    eventMove s = some (release st s) := by
  simp [eventMove, hp]

theorem eventMove_closeUnopened {s : State} (hp : s.seq.point = .closeUnopened) :
    eventMove s = some (releaseUnopened s) := by
  simp [eventMove, hp]

/-- R161: after an open answered `ok` a DRAW is underway, before its speed setting or at the loop test. -/
theorem eventMove_open_ok {s : State} {more : List Answer} (hb : s.seq.busy = true) (hp : s.seq.point = .openBus)
    (ha : s.answers = .ok :: more) :
    ∃ t, eventMove s = some t ∧ emitted s [.call (.busOpen s.cfg.busId s.cfg.deviceId) .ok] more t ∧ underway t ∧
      mayResume t ∧ eventsLeft t = openedEvents s.cfg s.fb s.seq.n.toNat := by
  rw [eventMove_openBus hp, openBus_ok ha]
  refine ⟨_, rfl, ?_⟩
  cases he : s.cfg.speedEn with
  | true => exact ⟨rfl, ⟨rfl, .inl (by simp [seqPhase, hb])⟩, nofun, by simp [eventsLeft, openedEvents, he]⟩
  | false =>
    exact ⟨rfl, ⟨rfl, .inr (.inl (by simp [seqPhase, hb]))⟩, fun _ => ⟨Nat.zero_le _, nofun⟩,
      by simp [eventsLeft, openedEvents, he]⟩

/-- R160 to R167: where more than the close is to come and the answer is `ok`, the event of the place is the next of the
events to come, and leaves the others. -/
theorem eventMove_ok {s : State} {e : Event} {es : List Event} {more : List Answer} (hs : onCourse s)
    (hl : eventsLeft s = e :: es) (hes : es ≠ []) (ha : s.answers = List.replicate ([e].countP isCall) .ok ++ more) :
    ∃ t, eventMove s = some t ∧ emitted s [e] more t ∧ underway t ∧ mayResume t ∧ eventsLeft t = es := by
  obtain ⟨hc, ⟨hb, hp⟩ | hu⟩ := hs
  · simp only [eventsLeft, hp, drawEvents_eq] at hl
    obtain ⟨rfl, rfl⟩ := List.cons.inj hl
    exact eventMove_open_ok hb hp ha
  have hb := hu.busy
  have ho := hu.1
  obtain hp | ⟨p, hp⟩ | hp | hp := hu.point_cases hc
  all_goals
    simp only [eventsLeft, hp] at hl
    obtain ⟨rfl, rfl⟩ := List.cons.inj hl
  · exact ⟨_, (eventMove_setSpeed hp).trans (setSpeed_ok ha), rfl, ⟨ho, .inr (.inl (by simp [seqPhase, hb]))⟩,
      fun _ => ⟨Nat.zero_le _, nofun⟩, by simp [eventsLeft]⟩
  · exact ⟨_, (eventMove_transmit hp).trans (transmit_ok ha), rfl, ⟨ho, .inr (.inr (by simp [seqPhase, hb]))⟩, nofun,
      by simp [eventsLeft, columnsLeft]⟩
  · have hlt : s.seq.iter.toNat < s.seq.n.toNat := by simpa [seqConsistent, hp] using hc
    obtain rfl : s.answers = more := ha
    refine ⟨_, eventMove_settle hp, by rw [settle_eq]; rfl, ?_,
      fun _ => (nextColumn_sweepBounded (s := emit _ s) hlt).1, nextColumn_eventsLeft (s := emit _ s) hlt⟩
    rw [settle_eq]
    exact ⟨ho, .inr (.inl (nextColumn_seqPhase hb))⟩
  · exact absurd rfl hes

/-- R6 (3): the same for the whole move, the silent moves behind the event included. -/
theorem sequencerMove_ok {s : State} {e : Event} {es : List Event} {more : List Answer} (hs : onCourse s)
    (hl : eventsLeft s = e :: es) (hes : es ≠ []) (ha : s.answers = List.replicate ([e].countP isCall) .ok ++ more) :
    ∃ t, sequencerMove s = some t ∧ emitted s [e] more t ∧ underway t ∧ seqConsistent t ∧ eventsLeft t = es := by
  obtain ⟨t, hm, hemit, hu, hr, hleft⟩ := eventMove_ok hs hl hes ha
  have hseq : sequencerMove s = some (seek t) := sequencerMove_eq_some.2 ⟨t, hm, rfl⟩
  exact ⟨_, hseq, emitted_seek hemit, seek_underway hu, sequencerMove_seqConsistent hs.1 hseq,
    (seek_eventsLeft hr).trans hleft⟩

/-- One step for each event: as long as the answers are `ok`, a DRAW emits the events to come in their order. -/
theorem run_ok {s : State} {es rest : List Event} {more : List Answer} (hs : onCourse s)
    (hr : ∀ l, s.inputs ≠ .reset :: l) (hl : eventsLeft s = es ++ rest) (hrest : rest ≠ [])
    (ha : s.answers = List.replicate (es.countP isCall) .ok ++ more) :
    ∃ t, run es.length s = .next t ∧ emitted s es more t ∧ onCourse t ∧ (es ≠ [] → underway t) ∧
      eventsLeft t = rest := by
  induction es generalizing s with
  | nil =>
    obtain rfl : s.answers = more := ha
    exact ⟨s, rfl, emitted_nil s, hs, absurd rfl, hl⟩
  | cons e es ih =>
    have hsplit : s.answers =
        List.replicate ([e].countP isCall) .ok ++ (List.replicate (es.countP isCall) .ok ++ more) := by
      rw [ha, ← List.append_assoc, List.replicate_append_replicate, ← List.countP_append, List.singleton_append]
    obtain ⟨t, hm, hemit, hu, hc, hleft⟩ := sequencerMove_ok hs hl (by simp [hrest]) hsplit
    have hin : t.inputs = s.inputs := by rw [hemit]
    obtain ⟨u, hrun, hemit', hcourse, hu', hleft'⟩ := ih ⟨hc, .inr hu⟩ (hin ▸ hr) hleft (by rw [hemit])
    have hstep := step_of_move hs.busy hr hm
    refine ⟨u, (run_succ_next hstep).trans hrun, hemit.trans hemit', hcourse, fun _ => ?_, hleft'⟩
    cases es with
    | nil => cases hrun; exact hu
    | cons e' es' => exact hu' nofun

/-! The last events of a DRAW. -/

/-- R168: the close ends the DRAW with the status it came with. -/
theorem sequencerMove_close {s : State} {st : Status} (hp : s.seq.point = .close st) :
    sequencerMove s = some { s with
      trace := s.trace ++ [.busClose], busOpen := false, seq := { s.seq with busy := false },
      responses := s.responses ++ [⟨st, .none⟩] } :=
  sequencerMove_eq_some.2 ⟨_, eventMove_close hp, seek_of_event (by simp [release, hp])⟩

/-- A DRAW on course with nothing but the close to come is at the close with `OK`. -/
theorem point_of_lastClose {s : State} (hs : onCourse s) (hl : eventsLeft s = [.busClose]) :
    s.seq.point = .close .ok := by
  obtain ⟨hc, ⟨-, hp⟩ | hu⟩ := hs
  · simp [eventsLeft, hp, drawEvents_eq] at hl
  obtain hp | ⟨p, hp⟩ | hp | hp := hu.point_cases hc
  iterate 3 simp [eventsLeft, hp] at hl
  exact hp

/-- The call a DRAW waits for is the next of the events to come. -/
theorem outstanding_eq {s : State} {c : Call} {a : Answer} {es : List Event} (hs : onCourse s)
    (hl : eventsLeft s = .call c a :: es) : outstanding s = some c := by
  have hb := hs.busy
  obtain ⟨hc, ⟨-, hp⟩ | hu⟩ := hs
  · simp only [eventsLeft, hp, drawEvents_eq] at hl
    cases hl
    simp [outstanding, hb, hp]
  obtain hp | ⟨p, hp⟩ | hp | hp := hu.point_cases hc
  all_goals
    simp only [eventsLeft, hp] at hl
    cases hl
  iterate 2 simp [outstanding, hb, hp]

end Sys2Proof.Proofs

/-! A whole DRAW as the outside answers it: every call `ok`, a first `fail`, or no answer (43_sequencer.md R169, R170,
R173, R174). -/

namespace Sys2Proof.Proofs

open Sys2Proof.Machine Sys2Proof.Laws

/-! The events of a DRAW, counted and cut (R170, R174). -/

/-- R170: what is counted once for a packet and its delay is counted once for each packet sent. -/
theorem countP_drawEvents {p : Event → Bool} {cfg : Cfg} {fb : FrameBuffer} {k : Nat} (n : Nat)
    (hk : ∀ c : Fin 8, [.call (.busWrite (columnPacket fb c.val)) .ok, .delay cfg.tCol].countP p = k) :
    (drawEvents cfg fb n).countP p =
      [.call (.busOpen cfg.busId cfg.deviceId) .ok].countP p +
        cfg.speedEn.toNat * [.call (.busSetSpeed cfg.maxSpeedHz) .ok].countP p +
        n * ((sentColumns fb).length * k) + [.busClose].countP p := by
  have hsweep : (sweepEvents cfg fb).countP p = (sentColumns fb).length * k := by
    simp only [sweepEvents, List.countP_flatMap, Function.comp_def, hk, List.map_const', List.sum_replicate_nat]
  have hspeed : (if cfg.speedEn then [.call (.busSetSpeed cfg.maxSpeedHz) .ok] else []).countP p =
      cfg.speedEn.toNat * [.call (.busSetSpeed cfg.maxSpeedHz) .ok].countP p := by
    cases cfg.speedEn <;> simp
  simp only [drawEvents, List.countP_append, hspeed, List.countP_flatten, List.map_replicate, hsweep,
    List.sum_replicate_nat]

theorem countP_isCall_drawEvents (cfg : Cfg) (fb : FrameBuffer) (n : Nat) :
    (drawEvents cfg fb n).countP isCall = drawCalls cfg fb n := by
  rw [countP_drawEvents (k := 1) n fun _ => rfl]
  simp [drawCalls, isCall]

/-- The events before a call, the call, and what follows it. -/
theorem callAt_split {j : Nat} {es : List Event} {c : Call} (h : callAt j es = some c) :
    ∃ a rest, es = eventsBeforeCall j es ++ .call c a :: rest ∧ (eventsBeforeCall j es).countP isCall = j := by
  induction es generalizing j with
  | nil => simp [callAt] at h
  | cons e es ih =>
    cases e with
    | call c' a =>
      cases j with
      | zero => cases h; exact ⟨a, es, rfl, rfl⟩
      | succ j =>
        obtain ⟨a', rest, hes, hcount⟩ := ih (j := j) h
        refine ⟨a', rest, congrArg (.call c' a :: ·) hes, ?_⟩
        rw [eventsBeforeCall, List.countP_cons_of_pos rfl, hcount]
    | delay t =>
      obtain ⟨a', rest, hes, hcount⟩ := ih (j := j) (by simpa [callAt] using h)
      exact ⟨a', rest, by simpa [eventsBeforeCall] using hes, by simp [eventsBeforeCall, isCall, hcount]⟩
    | busClose =>
      obtain ⟨a', rest, hes, hcount⟩ := ih (j := j) (by simpa [callAt] using h)
      exact ⟨a', rest, by simpa [eventsBeforeCall] using hes, by simp [eventsBeforeCall, isCall, hcount]⟩

theorem eventsBeforeCall_zero_drawEvents (cfg : Cfg) (fb : FrameBuffer) (n : Nat) :
    eventsBeforeCall 0 (drawEvents cfg fb n) = [] := by
  rw [drawEvents_eq]; rfl

/-! The request's own step as the first of a DRAW that has begun. -/

theorem beginDraw_onCourse (n : BitVec 16) (s : State) : onCourse (beginDraw n s) :=
  ⟨trivial, .inl ⟨rfl, rfl⟩⟩

theorem run_advance_beginDraw {n : BitVec 16} {s : State} (hr : ∀ l, s.inputs ≠ .reset :: l) {k : Nat}
    (hk : 0 < k) : run (k - 1) (advance (beginDraw n s)) = run k (beginDraw n s) := by
  obtain ⟨k, rfl⟩ := Nat.exists_eq_add_of_lt hk
  have hstep : step (beginDraw n s) = .next (advance (beginDraw n s)) := step_busy rfl hr
  rw [Nat.zero_add, Nat.add_sub_cancel, run_succ_next hstep]

theorem run_one {s t : State} (h : step s = .next t) : run 1 s = .next t := run_succ_next h

/-- The first `k` answers, all `ok`, and the rest. -/
theorem answers_split {l : List Answer} {k : Nat} (hlen : k ≤ l.length) (hok : ∀ a ∈ l.take k, a = .ok) :
    l = List.replicate k .ok ++ l.drop k := by
  conv_lhs => rw [← List.take_append_drop k l, List.eq_replicate_of_mem hok, List.length_take_of_le hlen]

/-! Every call answered `ok` (R174). -/

/-- The first events of a DRAW whose calls are all answered `ok`, one a step, the block staying busy. -/
theorem run_draw_firstEvents {n : BitVec 16} {s : State} {es rest : List Event} (hr : ∀ l, s.inputs ≠ .reset :: l)
    (hlen : drawCalls s.cfg s.fb n.toNat ≤ s.answers.length)
    (hok : ∀ a ∈ s.answers.take (drawCalls s.cfg s.fb n.toNat), a = .ok)
    (hes : drawEvents s.cfg s.fb n.toNat = es ++ rest) (hrest : rest ≠ []) :
    ∃ u, run es.length (beginDraw n s) = .next u ∧ onCourse u ∧ eventsLeft u = rest ∧
      emitted (beginDraw n s) es
        (List.replicate (rest.countP isCall) .ok ++ s.answers.drop (drawCalls s.cfg s.fb n.toNat)) u := by
  have hans := answers_split hlen hok
  rw [← countP_isCall_drawEvents, hes, List.countP_append, ← List.replicate_append_replicate, List.append_assoc,
    ← List.countP_append, ← hes, countP_isCall_drawEvents] at hans
  obtain ⟨u, hrun, hemit, hcourse, -, hleft⟩ := run_ok (s := beginDraw n s) (beginDraw_onCourse n s) hr hes hrest hans
  exact ⟨u, hrun, hcourse, hleft, hemit⟩

/-- Settles O31: the events before the last by `run_draw_firstEvents`; the last step is the close. -/
theorem drawAnsweredOk : Obligations.DrawAnsweredOk := by
  intro n s hb hr hlen hok
  refine ⟨_, exec_draw_idle hb, fun m hm => ?_, ?_⟩
  · obtain ⟨u, hrun, hcourse, -, hemit⟩ := run_draw_firstEvents (n := n) hr hlen hok
      (List.take_append_drop (m + 1) _).symm (by simpa using hm)
    rw [List.length_take_of_le hm.le] at hrun
    exact ⟨u, (run_advance_beginDraw hr m.succ_pos).trans hrun, hcourse.busy, by rw [hemit]; rfl, by rw [hemit]; rfl⟩
  · obtain ⟨es, hes⟩ : ∃ es, drawEvents s.cfg s.fb n.toNat = es ++ [.busClose] := ⟨_, rfl⟩
    obtain ⟨u, hrun, hcourse, hleft, hemit⟩ := run_draw_firstEvents hr hlen hok hes nofun
    have hin : u.inputs = s.inputs := by rw [hemit]; rfl
    have hlast := step_of_move hcourse.busy (hin ▸ hr) (sequencerMove_close (point_of_lastClose hcourse hleft))
    refine ⟨{ u.seq with busy := false }, rfl, ?_⟩
    rw [run_advance_beginDraw hr (by simp [hes]), hes, List.length_append, List.length_singleton, run_add hrun,
      run_one hlast, hemit]
    simp [isCall]

/-- Settles O35: the events are those of `drawAnsweredOk`, counted by `countP_drawEvents`. -/
theorem drawEventCounts : Obligations.DrawEventCounts := by
  intro n s hb hr hok hlen
  obtain ⟨t, ht, -, q, hq, hrun⟩ := drawAnsweredOk n s hb hr hlen fun a ha => hok a (List.mem_of_mem_take ha)
  refine ⟨t, _, drawEvents s.cfg s.fb n.toNat, ht, hrun, hq, rfl, ?_, ?_, ?_, ?_, ?_, ?_⟩
  · rw [countP_drawEvents (k := 1) _ fun _ => rfl]
    simp [sentColumns]
  · rw [List.count, countP_drawEvents (k := 1) _ fun _ => by simp]
    simp [sentColumns]
  · rw [List.count, countP_drawEvents (k := 0) _ fun _ => by simp]
    simp
  · rw [List.count, countP_drawEvents (k := 0) _ fun _ => by simp]
    simp
  · rw [List.count, countP_drawEvents (k := 0) _ fun _ => by simp]
    simp
  · rw [← List.countP_true, countP_drawEvents (k := 2) _ fun _ => rfl]
    simp only [sentColumns, List.countP_true, List.length_singleton]
    ring

/-! A first `fail` (R169). -/

/-- R169 (a): a speed setting or a write that fails is followed by the close, and the close by `TRANSPORT`. -/
theorem run_fail_underway {s : State} {c : Call} {more : List Answer} (hc : seqConsistent s) (hu : underway s)
    (hr : ∀ l, s.inputs ≠ .reset :: l) (ho : outstanding s = some c) (ha : s.answers = .fail :: more) :
    run 2 s = .next { s with
      trace := s.trace ++ [.call c .fail] ++ [.busClose], busOpen := false, answers := more,
      seq := { s.seq with point := .close .transport, busy := false },
      responses := s.responses ++ [⟨.transport, .none⟩] } := by
  have hfail : eventMove s =
      some (goto (.close .transport) (emit (.call c .fail) { s with answers := more })) := by
    obtain hp | ⟨p, hp⟩ | hp | hp := hu.point_cases hc
    all_goals
      simp only [outstanding, hu.busy, hp, if_true] at ho
      cases ho
    · rw [eventMove_setSpeed hp, setSpeed_fail ha]
    · rw [eventMove_transmit hp, transmit_fail ha]
  have hmove := sequencerMove_eq_some.2 ⟨_, hfail, seek_of_event (by simp)⟩
  exact (run_succ_next (step_of_move hu.busy hr hmove)).trans
    (run_one (step_of_move hu.busy hr (sequencerMove_close rfl)))

/-- R169 (b): a failed open is the last event, or followed by the close the parameter asks for. -/
theorem run_fail_open {s : State} {more : List Answer} {es : List Event} (hb : s.seq.busy = true)
    (hp : s.seq.point = .openBus) (hr : ∀ l, s.inputs ≠ .reset :: l) (ha : s.answers = .fail :: more)
    (hes : es = .call (.busOpen s.cfg.busId s.cfg.deviceId) .fail ::
      if s.cfg.closeAfterFailedOpen = false then [] else [.busClose]) :
    ∃ q : Seq, q.busy = false ∧ run es.length s = .next { s with
      trace := s.trace ++ es, answers := more, seq := q, responses := s.responses ++ [⟨.transport, .none⟩] } := by
  have hfail := (eventMove_openBus hp).trans (openBus_fail ha)
  cases hc : s.cfg.closeAfterFailedOpen with
  | false =>
    simp only [hc, Bool.false_eq_true, if_false] at hfail
    have hmove := sequencerMove_eq_some.2 ⟨_, hfail, seek_of_event (by simp [hp])⟩
    refine ⟨{ s.seq with busy := false }, rfl, ?_⟩
    rw [hes, hc]
    exact run_one (step_of_move hb hr hmove)
  | true =>
    simp only [hc, if_true] at hfail
    have hmove := sequencerMove_eq_some.2 ⟨_, hfail, seek_of_event (by simp)⟩
    have hclose (t : State) (ht : t.seq.point = .closeUnopened) : sequencerMove t = some (releaseUnopened t) :=
      sequencerMove_eq_some.2 ⟨_, eventMove_closeUnopened ht, seek_of_event (by simp [releaseUnopened, ht])⟩
    refine ⟨{ s.seq with busy := false, point := .closeUnopened }, rfl, ?_⟩
    rw [hes, hc]
    refine ((run_succ_next (step_of_move hb hr hmove)).trans (run_one (step_of_move hb hr (hclose _ rfl)))).trans ?_
    simp [releaseUnopened, raise, respond, goIdle, emit, goto]

/-- Settles O32: the events before the call by `run_ok`; then `run_fail_open` for the open, `run_fail_underway` for any
other call. -/
theorem drawStopsAtFirstFail : Obligations.DrawStopsAtFirstFail := by
  intro n s j c hb hr hopen hcall hfail hok
  obtain ⟨hj, hget⟩ := List.getElem?_eq_some_iff.1 hfail
  have hans : s.answers = List.replicate j .ok ++ .fail :: s.answers.drop (j + 1) := by
    rw [← hget, List.getElem_cons_drop]
    exact answers_split hj.le hok
  refine ⟨_, rfl, _, exec_draw_idle hb, ?_⟩
  rw [run_advance_beginDraw hr (by simp)]
  by_cases h0 : j = 0
  · subst h0
    obtain rfl : .busOpen s.cfg.busId s.cfg.deviceId = c := by
      rw [drawEvents_eq] at hcall
      exact Option.some.inj hcall
    simp only [eventsBeforeCall_zero_drawEvents, true_and, List.nil_append, List.singleton_append]
    exact run_fail_open (s := beginDraw n s) rfl rfl hr hans rfl
  · obtain ⟨a, rest, hsplit, hcount⟩ := callAt_split hcall
    obtain ⟨u, hrun, hemit, hcourse, hunder, hleft⟩ := run_ok (s := beginDraw n s) (beginDraw_onCourse n s) hr hsplit
      nofun (by rw [hcount]; exact hans)
    have hu : underway u := hunder fun h => h0 (by rw [← hcount, h]; rfl)
    have hin : u.inputs = s.inputs := by rw [hemit]; rfl
    have hend := run_fail_underway hcourse.1 hu (hin ▸ hr) (outstanding_eq hcourse hleft) (by rw [hemit])
    refine ⟨{ u.seq with point := .close .transport, busy := false }, rfl, ?_⟩
    rw [if_neg fun h => h0 h.1, List.length_append, List.length_append, List.length_singleton, List.length_singleton,
      Nat.add_assoc, run_add hrun, hend, hemit]
    simp [hopen]

/-! No answer (R173). -/

/-- Settles O33: the events before the call by `run_ok`; there the sequencer waits (`sequencerMove_eq_none`). -/
theorem drawWaitsForTheTransport : Obligations.DrawWaitsForTheTransport := by
  intro n s c hb hr hcall hok
  obtain ⟨a, rest, hsplit, hcount⟩ := callAt_split hcall
  have hans : s.answers = List.replicate s.answers.length .ok ++ [] := by
    rw [List.append_nil, ← List.eq_replicate_of_mem hok]
  obtain ⟨u, hrun, hemit, hcourse, hunder, hleft⟩ := run_ok (s := beginDraw n s) (beginDraw_onCourse n s) hr hsplit
    nofun (by rw [hcount]; exact hans)
  have hin : u.inputs = s.inputs := by rw [hemit]; rfl
  have hout := outstanding_eq hcourse hleft
  have hwait : sequencerMove u = none :=
    (sequencerMove_eq_none hcourse.busy).2 ⟨by rw [hemit], by rw [hout]; rfl⟩
  have hstart (h : s.answers = []) : beginDraw n s = u := by
    rw [h, List.length_nil, eventsBeforeCall_zero_drawEvents] at hrun
    exact Host.Outcome.next.inj hrun
  have hsome (h : s.answers ≠ []) : eventsBeforeCall s.answers.length (drawEvents s.cfg s.fb n.toNat) ≠ [] :=
    fun h' => h (List.length_eq_zero_iff.1 (hcount.symm.trans (by rw [h']; rfl)))
  have hopen : u.busOpen = if s.answers = [] then s.busOpen else true := by
    split <;> rename_i hnil
    · rw [← hstart hnil]; rfl
    · exact (hunder (hsome hnil)).1
  refine ⟨_, u, exec_draw_idle hb, ?_, hout, step_of_wait hcourse.busy (hin ▸ hr) hwait, u.seq, hcourse.busy, ?_⟩
  · by_cases hnil : s.answers = []
    · rw [hnil, List.length_nil, eventsBeforeCall_zero_drawEvents, hstart hnil, advance_wait hwait]
      rfl
    · rw [run_advance_beginDraw hr (List.length_pos_iff.2 (hsome hnil)), hrun]
  · rw [← hopen]
    exact hemit

end Sys2Proof.Proofs

/-! Two DRAWs alongside each other: what a DRAW does depends on the frame, the count, the configuration and the answers
alone (43_sequencer.md R172). -/

namespace Sys2Proof.Proofs

open Sys2Proof.Machine Sys2Proof.Laws

/-! A run seen behind another past: what the sequencer does, it adds to the trace and the responses there are. -/

/-- The state `t` with the past of `p` before its trace and its responses, with `p`'s inputs, and without `BUS.open`. -/
def behind (p t : State) : State :=
  { t with busOpen := false, trace := p.trace ++ t.trace, responses := p.responses ++ t.responses, inputs := p.inputs }

/-- R172: no event reads the past, the inputs or `BUS.open`. -/
theorem eventMove_behind {p s t : State} (h : setBusOpen false s = behind p t) :
    (eventMove s).map (setBusOpen false) = (eventMove t).map (behind p) := by
  obtain ⟨b, rfl⟩ : ∃ b, s = setBusOpen b (behind p t) := ⟨s.busOpen, by rw [← h]; rfl⟩
  have hp : (setBusOpen b (behind p t)).seq.point = t.seq.point := rfl
  unfold eventMove
  rw [hp]
  cases t.seq.point with
  | openBus =>
    refine ask_map_congr rfl fun a rest => ?_
    cases a with
    | ok => cases he : t.cfg.speedEn <;> simp [he, behind, setBusOpen, goto, startSweep, emit]
    | fail =>
      cases hf : t.cfg.closeAfterFailedOpen <;> simp [hf, behind, setBusOpen, goto, emit, raise, respond, goIdle]
  | setSpeed =>
    refine ask_map_congr rfl fun a rest => ?_
    cases a <;> simp [behind, setBusOpen, goto, startSweep, emit]
  | transmit q =>
    refine ask_map_congr rfl fun a rest => ?_
    cases a <;> simp [behind, setBusOpen, goto, emit]
  | closeUnopened => simp [behind, setBusOpen, releaseUnopened, raise, respond, goIdle, emit]
  | close st => simp [behind, setBusOpen, release, respond, goIdle, emit]
  | settle =>
    unfold settle nextColumn
    by_cases hc : t.seq.col = 7#3 <;> simp [hc, behind, setBusOpen]
  | loop => rfl
  | column => rfl

theorem seek_behind {p s t : State} (h : setBusOpen false s = behind p t) :
    setBusOpen false (seek s) = behind p (seek t) := by
  have hfb : s.fb = t.fb := (congrArg State.fb h :)
  have hseq : s.seq = t.seq := (congrArg State.seq h :)
  rw [seek_congr hfb hseq, (seek_frame t).1]
  exact congrArg (fun u : State => { u with seq := (seek t).seq }) h

theorem advance_behind {p s t : State} (h : setBusOpen false s = behind p t) :
    setBusOpen false (advance s) = behind p (advance t) := by
  have hm := eventMove_behind h
  unfold advance sequencerMove
  cases hs : eventMove s with
  | none =>
    cases ht : eventMove t with
    | none => exact h
    | some t' => simp [hs, ht] at hm
  | some s' =>
    cases ht : eventMove t with
    | none => simp [hs, ht] at hm
    | some t' =>
      simp only [hs, ht, Option.map_some, Option.some.injEq] at hm
      exact seek_behind hm

/-! The registers that are unread put aside. -/

/-- `s` does what `t` does, behind the past of `p`: the two differ in that past, in `BUS.open` and in registers no rule
reads. -/
def follows (p s t : State) : Prop := setBusOpen false (eraseUnread s) = behind p (eraseUnread t)

theorem follows_of_behind {p s t : State} (h : setBusOpen false s = behind p t) : follows p s t := by
  have hs : eraseUnread (setBusOpen false s) = setBusOpen false (eraseUnread s) :=
    (eraseUnread_of_seq (s := s) (s' := setBusOpen false s) rfl).trans
      (congrArg (setBusOpen false) (eraseUnread_frame s)).symm
  have ht : eraseUnread (behind p t) = behind p (eraseUnread t) :=
    (eraseUnread_of_seq (s := t) (s' := behind p t) rfl).trans
      (congrArg (behind p) (eraseUnread_frame t)).symm
  rw [follows, ← hs, h, ht]

theorem follows.busy {p s t : State} (h : follows p s t) : s.seq.busy = t.seq.busy := by
  rw [← eraseUnread_busy s, ← eraseUnread_busy t]
  exact congrArg (·.seq.busy) h

theorem follows.advance {p s t : State} (hb : t.seq.busy = true) (h : follows p s t) :
    follows p (advance s) (advance t) := by
  have key := follows_of_behind (advance_behind h)
  rwa [follows, advance_eraseUnread (h.busy.trans hb), advance_eraseUnread hb] at key

/-- The fields `follows` speaks of. -/
theorem follows.fields {p s t : State} (h : follows p s t) :
    s.trace = p.trace ++ t.trace ∧ s.responses = p.responses ++ t.responses ∧ s.inputs = p.inputs ∧
      s.answers = t.answers := by
  rw [follows, eraseUnread_frame s, eraseUnread_frame t] at h
  exact ⟨(congrArg State.trace h :), (congrArg State.responses h :),
    (congrArg State.inputs h :), (congrArg State.answers h :)⟩

theorem outstanding_eraseUnread (s : State) : outstanding (eraseUnread s) = outstanding s := by
  cases hb : s.seq.busy with
  | false => simp [outstanding, hb]
  | true =>
    have hcfg : (eraseUnread s).cfg = s.cfg := by rw [eraseUnread_frame]
    simp only [outstanding, eraseUnread_busy, eraseUnread_point hb, hcfg]

theorem follows.outstanding {p s t : State} (h : follows p s t) : outstanding s = outstanding t := by
  rw [← outstanding_eraseUnread s, ← outstanding_eraseUnread t]
  exact (congrArg Machine.outstanding h :)

/-! Step by step. -/

/-- As long as the DRAW that is followed goes on, the one that follows it keeps step. -/
theorem run_follows {p s t : State} {k : Nat} (hr : ∀ l, p.inputs ≠ .reset :: l) (h : follows p s t)
    (hb : ∀ m < k, (advance^[m] t).seq.busy = true) :
    ∃ u, run k s = .next u ∧ follows p u (advance^[k] t) := by
  induction k generalizing s t with
  | zero => exact ⟨s, rfl, h⟩
  | succ k ih =>
    have hbt : t.seq.busy = true := hb 0 k.succ_pos
    obtain ⟨-, -, hin, -⟩ := h.fields
    obtain ⟨u, hrun, hu⟩ := ih (h.advance hbt) fun m hm => hb (m + 1) (Nat.succ_lt_succ hm)
    exact ⟨u, (run_succ_next (step_busy (h.busy.trans hbt) (hin.symm ▸ hr))).trans hrun, hu⟩

/-- What is seen of the follower's busy bit is seen of the DRAW it follows. -/
theorem busy_of_run {p s t : State} {k : Nat} (hr : ∀ l, p.inputs ≠ .reset :: l) (h : follows p s t)
    (hb : ∀ m < k, ∃ v, run m s = .next v ∧ v.seq.busy = true) (m : Nat) (hm : m < k) :
    (advance^[m] t).seq.busy = true := by
  induction m using Nat.strong_induction_on with
  | _ m ih =>
    obtain ⟨u, hrun, hu⟩ := run_follows hr h fun i hi => ih i hi (hi.trans hm)
    obtain ⟨v, hv, hbusy⟩ := hb m hm
    obtain rfl : u = v := Host.Outcome.next.inj (hrun.symm.trans hv)
    exact hu.busy.symm.trans hbusy

/-- The state with no past, nothing presented and the sequencer as after reset. -/
def bare (s : State) : State :=
  { s with seq := resetSeq, busOpen := false, trace := [], responses := [], inputs := [] }

/-- R172: a DRAW follows the DRAW of the bare state, from its first event on. -/
theorem draw_follows_bare (n : BitVec 16) (s : State) :
    follows s (advance (beginDraw n s)) (advance (beginDraw n (bare s))) := by
  have hstart : follows s (beginDraw n s) (beginDraw n (bare s)) := by
    simp [follows, behind, bare, eraseUnread, beginDraw, setBusOpen]
  exact hstart.advance rfl

/-- Settles O36: both DRAWs follow the DRAW of one bare state. -/
theorem drawIsStateless : Obligations.DrawIsStateless := by
  intro n s s' hb hb' hr hr' hfb hcfg ha
  have hbare : bare s' = bare s := by simp [bare, hfb, hcfg, ha]
  have h := draw_follows_bare n s
  have h' := draw_follows_bare n s'
  rw [hbare] at h'
  refine ⟨_, _, exec_draw_idle hb, exec_draw_idle hb', fun k hbusy => ?_⟩
  have hgoes := busy_of_run hr h hbusy
  obtain ⟨u, hrun, hu⟩ := run_follows hr h hgoes
  obtain ⟨u', hrun', hu'⟩ := run_follows hr' h' hgoes
  obtain ⟨htrace, hresp, hin, hans⟩ := hu.fields
  obtain ⟨htrace', hresp', hin', hans'⟩ := hu'.fields
  exact ⟨u, u', _, _, hrun, hrun', htrace, htrace', hresp, hresp', hu.busy.trans hu'.busy.symm, hans.trans hans'.symm,
    hu.outstanding.trans hu'.outstanding.symm, hin, hin'⟩

end Sys2Proof.Proofs

/-! The request port of an idle block: which requests are illegal, what a request can be answered with, and what an error
leaves behind (30_encoding.md R77, R87; 60_exceptions.md R190 to R198, R206, R212). -/

namespace Sys2Proof.Proofs

open Sys2Proof.Machine Sys2Proof.Laws

/-- Settles O10: an idle step with no input presented is no change. -/
theorem stepWithNothingPresented : Obligations.StepWithNothingPresented := by
  intro s hb hi
  simp [step_idle hb, idleStep, hi]

/-- Settles O30: the guard of `execWirepkt` fails. -/
theorem otherPacketsAreRefused : Obligations.OtherPacketsAreRefused := by
  intro p s h
  refine if_neg fun ⟨hb, hp⟩ => ?_
  obtain hidle | hother := h
  · exact absurd (hidle.symm.trans hb) nofun
  · exact hother hp

/-! A request decodes exactly if it is legal (R77, R87). -/

theorem decodeFlagSeq_isOk {len lo hi : Byte} : (∃ f, decodeFlagSeq len lo hi = .ok f) ↔ len.toNat ≤ 16 := by
  refine ⟨fun ⟨f, hf⟩ => ?_, fun h => ⟨_, decodeFlagSeq_ok h⟩⟩
  by_contra h
  rw [decodeFlagSeq_error (not_le.1 h)] at hf
  cases hf

theorem decodeMirror_isOk {m : Byte} : (∃ b, decodeMirror m = .ok b) ↔ m.toNat ≤ 1 := by
  simp only [decodeMirror_eq_ok]
  constructor
  · rintro ⟨b, rfl⟩
    cases b <;> decide
  · intro h
    obtain h0 | h1 : m = 0#8 ∨ m = 1#8 := by bv_omega
    · exact ⟨false, h0⟩
    · exact ⟨true, h1⟩

theorem decodeGrid_isOk {bs : List Byte} (h : bs.length = 8) : ∃ g, decodeGrid bs = .ok g :=
  ⟨_, dif_pos h⟩

/-- R87 (c), (d): the condition a format's field values must meet, over the operand bytes. -/
def fieldsLegal : Opcode → List Byte → Prop
  | .b2byte, ops => (ops.getD 0 0#8).toNat ≤ 16
  | .enccol, ops => (ops.getD 0 0#8).toNat ≤ 16 ∧ (ops.getD 3 0#8).toNat ≤ 16 ∧ (ops.getD 6 0#8).toNat ≤ 16
  | .setfrm, ops => (ops.getD 0 0#8).toNat ≤ 1
  | _, _ => True

theorem mem_requestFormats {f : Byte × Nat} : f ∈ requestFormats ↔ ∃ op : Opcode, f = (op.toByte, op.length) := by
  constructor
  · simp only [requestFormats, List.mem_cons, List.not_mem_nil, or_false]
    rintro (rfl | rfl | rfl | rfl | rfl | rfl | rfl | rfl | rfl)
    exacts [⟨.setbit, rfl⟩, ⟨.clrbit, rfl⟩, ⟨.tstbit, rfl⟩, ⟨.b2byte, rfl⟩, ⟨.byte2b, rfl⟩, ⟨.enccol, rfl⟩,
      ⟨.decpkt, rfl⟩, ⟨.setfrm, rfl⟩, ⟨.draw, rfl⟩]
  · rintro ⟨op, rfl⟩
    cases op <;> decide

/-- A legal request is an opcode and as many operand bytes as its format has, with legal fields. -/
theorem legalRequest_iff {bs : List Byte} :
    LegalRequest bs ↔ ∃ op ops, bs = Opcode.toByte op :: ops ∧ ops.length + 1 = op.length ∧ fieldsLegal op ops := by
  constructor
  · rintro ⟨f, hf, hhead, hlen, hflags, hcolumns, hmirror⟩
    obtain ⟨op, rfl⟩ := mem_requestFormats.1 hf
    obtain ⟨ops, rfl⟩ := List.head?_eq_some_iff.1 hhead
    refine ⟨op, ops, rfl, hlen, ?_⟩
    cases op with
    | b2byte => exact hflags rfl
    | enccol => exact hcolumns rfl
    | setfrm => exact hmirror rfl
    | _ => trivial
  · rintro ⟨op, ops, rfl, hlen, hfields⟩
    refine ⟨_, mem_requestFormats.2 ⟨op, rfl⟩, rfl, hlen, ?_⟩
    cases op <;> simp_all [fieldsLegal, Opcode.toByte]

/-- R79 to R84, R87: operand bytes of the format's number are read exactly if their fields are legal. -/
theorem decodeOperands_isOk {op : Opcode} {ops : List Byte} (h : ops.length + 1 = op.length) :
    (∃ i, decodeOperands op ops = .ok i) ↔ fieldsLegal op ops := by
  cases op with
  | setbit | clrbit | tstbit | draw =>
    match ops, h with
    | [_, _], _ => exact iff_of_true ⟨_, rfl⟩ trivial
  | byte2b =>
    match ops, h with
    | [_], _ => exact iff_of_true ⟨_, rfl⟩ trivial
  | decpkt =>
    match ops, h with
    | [_, _, _, _], _ => exact iff_of_true ⟨_, rfl⟩ trivial
  | b2byte =>
    match ops, h with
    | [len, lo, hi], _ =>
      refine Iff.trans ?_ (decodeFlagSeq_isOk (lo := lo) (hi := hi))
      simp [decodeOperands, except_map_eq_ok]
  | enccol =>
    match ops, h with
    | [rl, r0, r1, gl, g0, g1, bl, b0, b1, col], _ =>
      refine Iff.trans ?_ (and_congr (decodeFlagSeq_isOk (lo := r0) (hi := r1))
        (and_congr (decodeFlagSeq_isOk (lo := g0) (hi := g1)) (decodeFlagSeq_isOk (lo := b0) (hi := b1))))
      simp [decodeOperands, except_bind_eq_ok]
  | setfrm =>
    match ops, h with
    | m :: rows, h =>
      have hrows : rows.length = 24 := by simpa [Opcode.length] using h
      obtain ⟨red, hr⟩ := decodeGrid_isOk (bs := rows.take 8) (by simp [hrows])
      obtain ⟨green, hg⟩ := decodeGrid_isOk (bs := (rows.drop 8).take 8) (by simp [hrows])
      obtain ⟨blue, hb⟩ := decodeGrid_isOk (bs := rows.drop 16) (by simp [hrows])
      refine Iff.trans ?_ decodeMirror_isOk
      simp [decodeOperands, except_bind_eq_ok, hr, hg, hb, exists_or]

theorem decodeRequest_wrongLength {op : Opcode} {ops : List Byte} (h : ops.length + 1 ≠ op.length) :
    decodeRequest (op.toByte :: ops) = .error .wrongLength := by
  simp [decodeRequest, h]

/-- R77, R87: the decoder reads exactly the legal requests. -/
theorem decodeRequest_isOk {bs : List Byte} : (∃ i, decodeRequest bs = .ok i) ↔ LegalRequest bs := by
  rw [legalRequest_iff]
  constructor
  · rintro ⟨i, hi⟩
    obtain ⟨op, ops, rfl, hops⟩ := decodeRequest_ok hi
    by_cases hlen : ops.length + 1 = op.length
    · exact ⟨op, ops, rfl, hlen, (decodeOperands_isOk hlen).1 ⟨i, hops⟩⟩
    · rw [decodeRequest_wrongLength hlen] at hi
      cases hi
  · rintro ⟨op, ops, rfl, hlen, hfields⟩
    rw [decodeRequest_toByte hlen]
    exact (decodeOperands_isOk hlen).2 hfields

/-- Settles O5: legal is decodable, by `decodeRequest_isOk`; what does not decode is answered `ILLEGAL_REQUEST`. -/
theorem illegalRequestsAreAnswered : Obligations.IllegalRequestsAreAnswered := by
  intro s bs rest hb hi
  rw [← decodeRequest_isOk]
  refine ⟨fun hillegal => ?_, fun ⟨i, hd⟩ => ⟨i, hd, stepRunsDecodedRequest s bs rest i hb hi hd⟩⟩
  cases hd : decodeRequest bs with
  | ok i => exact absurd ⟨i, hd⟩ hillegal
  | error e =>
    simp only [step_idle hb, idleStep, hi, serveRequest, hd]
    rfl

/-! The statuses an operation can end with (R190 to R193). -/

theorem except_map_eq_error {ε α β : Type} {x : Except ε α} {f : α → β} {e : ε} :
    x.map f = .error e ↔ x = .error e := by
  cases x <;> simp [Except.map]

theorem checkIndex_eq_error {idx : Byte} {st : Status} (h : checkIndex idx = .error st) : st = .indexRange := by
  unfold checkIndex at h
  split at h <;> cases h
  rfl

theorem bitsToByte_eq_error {f : FlagSeq} {st : Status} (h : bitsToByte f = .error st) : st = .shape := by
  unfold bitsToByte at h
  split at h <;> cases h
  rfl

theorem encodeColumn_eq_error {red green blue : FlagSeq} {col : Byte} {st : Status}
    (h : encodeColumn red green blue col = .error st) : st = .shape ∨ st = .indexRange := by
  by_cases hlen : red.length = 8 ∧ green.length = 8 ∧ blue.length = 8
  · obtain ⟨hr, hg, hb⟩ := hlen
    rcases Nat.lt_or_ge 7 col.toNat with hc | hc
    · rw [encodeColumn_indexRange hr hg hb hc] at h
      cases h
      exact .inr rfl
    · rw [encodeColumn_ok hr hg hb hc] at h
      cases h
  · rw [encodeColumn_shape (by tauto)] at h
    cases h
    exact .inl rfl

/-- R190, R197: the response ends a request of the operation with a status the table gives it, and has no result unless
the status is `OK`. -/
def answerFits (i : Instr) (r : Response) : Prop :=
  r.status ∈ allowedStatuses i ∧ (r.status ≠ .ok → r.result = .none)

/-- A pure operation that ends by an outcome, whose errors the table gives it, answers with a fitting response. -/
theorem accept_conclude_answerFits {i : Instr} {c : Except Status Result} {s t : State} {r : Response}
    (hok : .ok ∈ allowedStatuses i) (herr : ∀ st, c = .error st → st ∈ allowedStatuses i)
    (h : accept s (conclude c) = .next t) (hr : t.responses = s.responses ++ [r]) : answerFits i r := by
  obtain ⟨-, rfl⟩ := accept_next.1 h
  cases c with
  | ok v =>
    obtain rfl : ⟨.ok, v⟩ = r := by simpa [conclude] using hr
    exact ⟨hok, fun hne => absurd rfl hne⟩
  | error st =>
    obtain rfl : ⟨st, .none⟩ = r := by simpa [conclude] using hr
    exact ⟨herr st rfl, fun _ => rfl⟩

/-! How a DRAW ends (R168, R169). -/

/-- Everything an event that presents a response has done: it was the failed open's, or its close's, and the response is
`TRANSPORT`; or it was the close of step 4, with the status of its place. The block is idle. -/
theorem eventMove_response {s t : State} {r : Response} (h : eventMove s = some t)
    (hr : t.responses = s.responses ++ [r]) :
    ((s.seq.point = .openBus ∨ s.seq.point = .closeUnopened) ∧ r = ⟨.transport, .none⟩ ∧ t.seq.busy = false ∧
      t.busOpen = s.busOpen) ∨
    (∃ st, s.seq.point = .close st ∧ r = ⟨st, .none⟩ ∧ t.seq.busy = false ∧ t.busOpen = false) := by
  have silent {P : Prop} (h : s.responses = s.responses ++ [r]) : P := by simp at h
  have presented {r' : Response} (h : s.responses ++ [r'] = s.responses ++ [r]) : r = r' := by simpa using h.symm
  obtain ⟨-, rfl⟩ | ⟨_, -, -, rfl⟩ | ⟨_, -, -, -, rfl⟩ | ⟨_, hp, -, -, rfl⟩ | ⟨hp, rfl⟩ | ⟨_, -, -, rfl⟩ |
    ⟨_, -, -, rfl⟩ | ⟨_, _, -, -, rfl⟩ | ⟨_, _, -, -, rfl⟩ | ⟨-, rfl⟩ | ⟨st, hp, rfl⟩ := eventMove_cases h
  iterate 3 exact silent hr
  · exact .inl ⟨.inl hp, presented hr, rfl, rfl⟩
  · exact .inl ⟨.inr hp, presented hr, rfl, rfl⟩
  iterate 5 exact silent hr
  · exact .inr ⟨st, hp, presented hr, rfl, rfl⟩

/-- R34: while `BUS.open` is 1 the sequencer is past its open. -/
def openIsPast (s : State) : Prop :=
  s.seq.point = .openBus ∨ s.seq.point = .closeUnopened → s.busOpen = false

theorem openIsPast_of_blockInv {s : State} (h : BlockInv s) : openIsPast s := by
  obtain ⟨-, hopen, -⟩ := h
  rintro (hp | hp) <;> simp [hopen, hp]

/-- A DRAW ends with `OK` or `TRANSPORT` and without a result, and leaves the block idle and the bus closed. -/
theorem advance_response {s : State} {r : Response} (hc : seqConsistent s)
    (hr : (advance s).responses = s.responses ++ [r]) :
    (r.status = .ok ∨ r.status = .transport) ∧ r.result = .none ∧ (advance s).seq.busy = false ∧
      (openIsPast s → (advance s).busOpen = false) := by
  cases hm : sequencerMove s with
  | none => simp [advance_wait hm] at hr
  | some t =>
    obtain ⟨u, hu, rfl⟩ := sequencerMove_eq_some.1 hm
    simp only [advance_move hm, seek_responses, seek_busy, seek_busOpen] at hr ⊢
    obtain ⟨hp, rfl, hb, hopen⟩ | ⟨st, hp, rfl, hb, hopen⟩ := eventMove_response hu hr
    · exact ⟨.inr rfl, rfl, hb, fun ho => hopen.trans (ho hp)⟩
    · simp only [seqConsistent, hp] at hc
      exact ⟨hc.imp_left And.left, rfl, hb, fun _ => hopen⟩

theorem advance_answerFits {s : State} {r : Response} (n : BitVec 16) (hc : seqConsistent s)
    (hr : (advance s).responses = s.responses ++ [r]) : answerFits (.draw n) r := by
  obtain ⟨hstatus, hnone, -⟩ := advance_response hc hr
  exact ⟨by simpa [allowedStatuses] using hstatus, fun _ => hnone⟩

/-! A request's own step. -/

theorem exec_pure_answerFits {i : Instr} {s t : State} {r : Response} (hi : PureOperation i)
    (h : exec i s = .next t) (hr : t.responses = s.responses ++ [r]) : answerFits i r := by
  have index {f : Nat → Result} {idx : Byte} (st : Status) (he : (checkIndex idx).map f = .error st) :
      st ∈ [.ok, .indexRange] := by
    simp [checkIndex_eq_error (except_map_eq_error.1 he)]
  have total {v : Result} {l : List Status} (st : Status) (he : Except.ok v = .error st) : st ∈ l := nomatch he
  cases i with
  | setbit | clrbit | tstbit => exact accept_conclude_answerFits (.head _) index h hr
  | b2byte f =>
    refine accept_conclude_answerFits (.head _) (fun st he => ?_) h hr
    simp [allowedStatuses, bitsToByte_eq_error (except_map_eq_error.1 he)]
  | byte2b | decpkt => exact accept_conclude_answerFits (.head _) total h hr
  | enccol red green blue col =>
    refine accept_conclude_answerFits (.head _) (fun st he => ?_) h hr
    simpa [allowedStatuses] using .inr (encodeColumn_eq_error (except_map_eq_error.1 he))
  | setfrm | draw | wirepkt => exact hi.elim

theorem exec_answerFits {i : Instr} {s t : State} {r : Response} (hi : i.channel = .requestPort)
    (h : exec i s = .next t) (hr : t.responses = s.responses ++ [r]) : answerFits i r := by
  obtain ⟨hp, -, -⟩ | ⟨m, red, green, blue, rfl, -, rfl⟩ | ⟨n, rfl, -, rfl⟩ | ⟨_, rfl, -, -, -⟩ := exec_next h
  · exact exec_pure_answerFits hp h hr
  · obtain rfl : ⟨.ok, .none⟩ = r := by simpa using hr
    exact ⟨.head _, fun _ => rfl⟩
  · exact advance_answerFits (s := beginDraw n s) n trivial hr
  · cases hi

/-- Settles O40: a request's own step by `exec_answerFits`, a later step of a DRAW by `advance_answerFits`. -/
theorem statusesOfEachOperation : Obligations.StatusesOfEachOperation := by
  refine ⟨fun i s t r => exec_answerFits, fun s t r hinv hb h hr => ?_, rfl, rfl, rfl, rfl, rfl⟩
  obtain rfl := step_next_of_busy hb h
  obtain ⟨-, -, hc⟩ := hinv
  exact advance_answerFits s.seq.n (hc hb) hr

/-! What an error leaves behind (R197, R198). -/

/-- Settles O41: a pure operation only responds, SETFRM has no error, a DRAW ends by `advance_response`. -/
theorem errorsLeaveTheBlockIdle : Obligations.ErrorsLeaveTheBlockIdle := by
  refine ⟨fun i s t st v hi hclosed h hr hst => ?_, fun s t st v hinv hb h hr _ => ?_⟩
  · obtain ⟨-, hb, r, rfl⟩ | ⟨_, _, _, _, rfl, -, rfl⟩ | ⟨n, rfl, -, rfl⟩ | ⟨_, rfl, -, -, -⟩ := exec_next h
    · exact ⟨rfl, rfl, hb, hclosed, (exec_answerFits hi h hr).2 hst, fun _ => ⟨rfl, rfl, rfl⟩⟩
    · simp [Ne.symm hst] at hr
    · obtain ⟨hstatus, hnone, hb, hopen⟩ := advance_response (s := beginDraw n s) trivial hr
      exact ⟨advance_fb _, advance_cfg _, hb, hopen fun _ => hclosed, hnone,
        fun htransport => (hstatus.elim hst htransport).elim⟩
    · cases hi
  · obtain rfl := step_next_of_busy hb h
    obtain ⟨hfb, hcfg, hinputs⟩ := advance_frame s
    have hpast := openIsPast_of_blockInv hinv
    obtain ⟨-, -, hc⟩ := hinv
    obtain ⟨-, hnone, hidle, hopen⟩ := advance_response (hc hb) hr
    exact ⟨hfb, hcfg, hinputs, hidle, hopen hpast, hnone⟩

end Sys2Proof.Proofs

/-! The reset input, the state it gives, a request or a reset while a DRAW is in progress, and a DRAW of the reset frame
(70_reset_and_hazards.md R220 to R226; 43_sequencer.md R164, R174). -/

namespace Sys2Proof.Proofs

open Sys2Proof.Machine Sys2Proof.Laws

/-! Reset (R220, R221). -/

/-- Settles O42: `step_busy_reset`. -/
theorem resetDuringRequestIsRefused : Obligations.ResetDuringRequestIsRefused :=
  fun _ _ => step_busy_reset

theorem step_idle_reset {s : State} {rest : List HostInput} (hb : s.seq.busy = false) (hi : s.inputs = .reset :: rest) :
    step s = .next (applyReset { s with inputs := rest }) := by
  simp [step_idle hb, idleStep, hi]

/-- Settles O44: the step is `applyReset`, whose rows are those of `resetStateValues`. -/
theorem resetInputGivesResetState : Obligations.ResetInputGivesResetState := by
  intro s rest hb hi
  obtain ⟨hrows, hidle, hclosed, htrace⟩ := resetStateValues
  exact ⟨_, step_idle_reset hb hi, hrows, hidle, hclosed, rfl, htrace, rfl, rfl⟩

/-- Settles O49: the block is idle, the bus closed and the trace empty. -/
theorem resetHasInvariant : Obligations.ResetHasInvariant :=
  blockInv_of_idle rfl ⟨rfl, rfl⟩

/-! A request presented to a busy block (R226, R76). -/

/-- Settles O38: `exec_busy`; a busy step is `advance`, which leaves the inputs. -/
theorem requestsWaitWhileBusy : Obligations.RequestsWaitWhileBusy := by
  refine fun i s hb => ⟨fun hi => exec_busy hi hb, fun t h => ?_⟩
  obtain ⟨-, -, hinputs⟩ := advance_frame s
  rw [step_next_of_busy hb h, hinputs]

/-! The reset frame on the bus (R22, R223). -/

theorem pixel_resetGrid (k c : Fin 8) : pixel resetGrid k c = true := by
  have hff : ∀ c : Fin 8, (0xFF#8).getLsbD c.val = true := by decide
  obtain ⟨hrows, -⟩ := resetStateValues
  obtain ⟨hrow, -, -⟩ := hrows k
  exact (congrArg (fun row : Byte => row.getLsbD c.val) hrow).trans (hff c)

theorem columnLit_resetFrame (c : Fin 8) : columnLit resetFrame c = true :=
  decide_eq_true ⟨0, .inl (pixel_resetGrid 0 c)⟩

theorem sentColumns_resetFrame : sentColumns resetFrame = List.finRange 8 :=
  List.filter_eq_self.2 fun c _ => columnLit_resetFrame c

/-- R103: a column that is lit in every row packs to 0x00. -/
theorem packFlags_slice_resetGrid (c : Fin 8) : packFlags (slice resetGrid c.val) = 0x00#8 := by
  refine byte_eq_of_testBit fun k hk => ?_
  have hbit := getLsbD_packFlags_slice resetGrid ⟨k, hk⟩ c
  rw [pixel_resetGrid] at hbit
  simpa [testBit] using hbit

theorem columnPacket_resetFrame (c : Fin 8) :
    columnPacket resetFrame c.val = ⟨0x00#8, 0x00#8, 0x00#8, 1#8 <<< c.val⟩ := by
  simp only [columnPacket, resetFrame, packFlags_slice_resetGrid, bitMask]

/-- R223: the events of one iteration of the reset frame. -/
theorem sweepEvents_resetFrame (cfg : Cfg) :
    sweepEvents cfg resetFrame = (List.range 8).flatMap fun c =>
      [.call (.busWrite ⟨0x00#8, 0x00#8, 0x00#8, 1#8 <<< c⟩) .ok, .delay cfg.tCol] := by
  rw [sweepEvents, sentColumns_resetFrame, ← List.map_coe_finRange_eq_range, List.flatMap_map]
  simp only [columnPacket_resetFrame]

theorem drawCalls_resetFrame (cfg : Cfg) (n : Nat) :
    drawCalls cfg resetFrame n = 1 + cfg.speedEn.toNat + n * 8 := by
  rw [drawCalls, sentColumns_resetFrame, List.length_finRange]

/-- R223: `BusOpen`, `BusSetSpeed` if enabled, 16 events an iteration, `BusClose`. -/
theorem length_drawEvents_resetFrame (cfg : Cfg) (n : Nat) :
    (drawEvents cfg resetFrame n).length = 1 + cfg.speedEn.toNat + n * 16 + 1 := by
  rw [← List.countP_true, countP_drawEvents (k := 2) n fun _ => rfl, sentColumns_resetFrame, List.length_finRange]
  simp

/-- Settles O37: `drawAnsweredOk` with the events and calls of the reset frame. -/
theorem drawOfResetFrame : Obligations.DrawOfResetFrame := by
  intro n s hb hr hfb hlen hok
  rw [reset_fb] at hfb
  rw [← drawCalls_resetFrame, ← hfb] at hlen
  obtain ⟨t, ht, -, q, hq, hrun⟩ := drawAnsweredOk n s hb hr hlen fun a ha => hok a (List.mem_of_mem_take ha)
  rw [hfb, length_drawEvents_resetFrame, Nat.add_sub_cancel] at hrun
  refine ⟨t, _, ht, hrun, hfb.symm, hq, rfl, rfl, ?_⟩
  rw [drawEvents, sweepEvents_resetFrame]

end Sys2Proof.Proofs
